-- ==== Sys2Proof/Word.lean ====
section
/-! DEFINITION. The words of the SWPD: register words, bytes, tick counts, and the two levels of the line
(spec/00_scope.md rules R6, R8). -/
namespace Sys2Proof

/-- A register word: 32 bits (R6). -/
abbrev Word := BitVec 32

/-- A frame byte: 8 bits (R8). -/
abbrev Byte := BitVec 8

/-- A hold count, a timeout or a duration in ticks: 16 bits, 0 to 65535 (R6). -/
abbrev TickCount := BitVec 16

/-- The level of the single data line: 0 is low, 1 is high (R8, the glossary of 00_scope.md). -/
inductive LineLevel where
  | low
  | high
deriving DecidableEq, Repr, Inhabited

end Sys2Proof
end

