-- ==== Sys2Proof/Syntax.lean ====
section
/-! DEFINITION. The commands of the SWPD (one constructor per row of spec/opcode_table.json), why a word is no command,
the textual commands of spec/30_encoding.md rules R53 and R54, and the register window's names. -/
namespace Sys2Proof

/-- The three commands (R2, R46). A command is one 32-bit word written to CMD (R45, R52). -/
inductive Instr where
  /-- NOP: clear the command-error flag (40_signal_timer.md R62) -/
  | nop
  /-- READ: one complete single-wire transaction (41_frame_decoder.md R70) -/
  | read
  /-- MEASURE level, timeout: measure one hold (40_signal_timer.md R63); the operands are LEVEL (R47) and
  TIMEOUT in ticks (R48) -/
  | measure (level : LineLevel) (timeout : TickCount)
deriving DecidableEq, Repr

/-- Why a word written to CMD is no command: the classes of reserved encodings of R50. CMDERR does not record
which (R93). -/
inductive Reject where
  /-- a 1 in bits 7:4 or 15:9 -/
  | reservedBits
  /-- OP in 0x3 to 0xF -/
  | reservedOp
  /-- OP = 0x0 with LEVEL or TIMEOUT bits -/
  | nopOperands
  /-- OP = 0x1 with LEVEL or TIMEOUT bits -/
  | readOperands
deriving DecidableEq, Repr

/-- A command as text, with the operands a programmer writes as numbers: the syntax of R53 and the
pseudo-instructions of R54. -/
inductive Asm where
  | nop
  | read
  | measure (level timeout : Nat)
  | measureLow (timeout : Nat)
  | measureHigh (timeout : Nat)
  | clrerr
deriving DecidableEq, Repr

/-- The eight registers of the window (10_state.md section 4). -/
inductive Reg where
  | cmd
  | status
  | frame0
  | frame1
  | hum
  | temp
  | hold
  /-- offset 0x1C, reserved (R25) -/
  | reserved
deriving DecidableEq, Repr

/-- The width of a host access in bytes: 1, 2 or 4 (R31). -/
inductive AccessWidth where
  | byte
  | half
  | word
deriving DecidableEq, Repr

end Sys2Proof
end

