-- ==== Sys2Proof/WellFormed.lean ====
section
/-! DEFINITION. Which written commands have a command word: the operand ranges of spec/30_encoding.md rules R53, R54.
A term of `Instr` holds each operand at exactly its field's width, so the check of an `Instr` is the check of its
written form, and every term passes it (Laws/Decode.lean). -/
namespace Sys2Proof

/-- "level 0 or 1, timeout 0 to 65535" (R53); the pseudo-instructions take the same timeouts (R54). -/
def Asm.wellFormed : Asm → Bool
  | .nop => true
  | .read => true
  | .clrerr => true
  | .measure level timeout => decide (level ≤ 1) && decide (timeout ≤ 65535)
  | .measureLow timeout => decide (timeout ≤ 65535)
  | .measureHigh timeout => decide (timeout ≤ 65535)

/-- A level as the number it is written as (R8, R53). -/
def LineLevel.toNat : LineLevel → Nat
  | .low => 0
  | .high => 1

/-- A command in the syntax of R53. -/
def Instr.toAsm : Instr → Asm
  | .nop => .nop
  | .read => .read
  | .measure level timeout => .measure level.toNat timeout.toNat

/-- The operand ranges of R53, for a command. -/
def Instr.wellFormed (i : Instr) : Bool := i.toAsm.wellFormed

end Sys2Proof
end

