-- ==== Sys2Proof/Decode.lean ====
section
/-! DEFINITION. The command word: its decoder, total on all 2^32 words and rejecting by name, and the encoder
(spec/30_encoding.md rules R45 to R54; spec/opcode_table.json). -/
namespace Sys2Proof

/-- LEVEL as the bit it is (R47): 0 low, 1 high. -/
def LineLevel.bit : LineLevel → BitVec 1
  | .low => 0
  | .high => 1

/-- The level a bit stands for (R8). -/
def LineLevel.ofBool : Bool → LineLevel
  | false => .low
  | true => .high

/-! The fields of R45. -/

/-- OP, bits 3:0. -/
def fieldOp (v : Word) : BitVec 4 := v.extractLsb' 0 4
/-- Bits 7:4, reserved, must be 0. -/
def fieldReservedLow (v : Word) : BitVec 4 := v.extractLsb' 4 4
/-- LEVEL, bit 8. -/
def fieldLevel (v : Word) : LineLevel := .ofBool (v.getLsbD 8)
/-- Bits 15:9, reserved, must be 0. -/
def fieldReservedHigh (v : Word) : BitVec 7 := v.extractLsb' 9 7
/-- TIMEOUT, bits 31:16, unsigned and unscaled (R48). -/
def fieldTimeout (v : Word) : TickCount := v.extractLsb' 16 16
/-- Bits 31:8, the operand bits that NOP and READ need to be 0 (R46, R49). -/
def fieldOperands (v : Word) : BitVec 24 := v.extractLsb' 8 24

/-- Which command a word written to CMD is, in the order of the tests of R49; the rejected words are the reserved
encodings of R50. -/
def decode (v : Word) : Except Reject Instr :=
  if v = 0x00000000#32 then .ok .nop
  else if fieldReservedLow v ≠ 0 ∨ fieldReservedHigh v ≠ 0 then .error .reservedBits
  else if fieldOp v = 0x1 ∧ fieldOperands v = 0 then .ok .read
  else if fieldOp v = 0x2 then .ok (.measure (fieldLevel v) (fieldTimeout v))
  else if fieldOp v = 0x0 then .error .nopOperands
  else if fieldOp v = 0x1 then .error .readOperands
  else .error .reservedOp

/-- The word of a command, laid out as R45's diagram: TIMEOUT, 0000000, LEVEL, 0000, OP. -/
def encode : Instr → Word
  | .nop => 0x00000000
  | .read => 0x00000001
  | .measure level timeout => timeout ++ 0#7 ++ level.bit ++ 0#4 ++ 0x2#4

/-- The command a written command stands for, none where an operand is out of range (R53); a pseudo-instruction
stands for its expansion (R54). -/
def Asm.assemble (a : Asm) : Option Instr :=
  if a.wellFormed then
    match a with
    | .nop => some .nop
    | .read => some .read
    | .clrerr => some .nop
    | .measure level timeout => some (.measure (.ofBool (level == 1)) (BitVec.ofNat 16 timeout))
    | .measureLow timeout => some (.measure .low (BitVec.ofNat 16 timeout))
    | .measureHigh timeout => some (.measure .high (BitVec.ofNat 16 timeout))
  else none

/-- The instruction the decoder reads from an instruction whose bits are `w`, numbered as spec/opcode_table.json numbers
them; the bits above `nbits` are 0. A command is one 32-bit word of the data bus, bit `i` of it bit `i` of the bus
(20_memory.md R32), so no byte order enters. -/
def decodeTableWord (nbits w : Nat) : Option Instr :=
  match decode (BitVec.ofNat 32 (w % 2 ^ nbits)) with
  | .ok i => some i
  | .error _ => none

end Sys2Proof
end

