-- ==== Sys2Proof/Config.lean ====
section
/-! DEFINITION. What an implementation of the SWPD fixes (the build-time parameters of spec/00_scope.md rule R5) and the
model's one free value (the level the line environment chooses where no input names it, spec/10_state.md rule R10). -/
namespace Sys2Proof

/-- The build-time parameters of R5. "A model takes each parameter as an argument": the machine's state carries one
such record, no step changes it, and every statement holds for every record its premises allow (log entry 1).
Durations are in ticks (R7). -/
structure Params where
  /-- ticks the line is driven low in WAKE -/
  tWake : TickCount
  /-- ticks the line is driven high in REQ -/
  tReq : TickCount
  /-- timeout of the presence low hold -/
  toPresL : TickCount
  /-- timeout of the presence high hold -/
  toPresH : TickCount
  /-- timeout of each bit's low hold -/
  toBitL : TickCount
  /-- timeout of each bit's high hold -/
  toBitH : TickCount
  /-- a high hold longer than this many ticks is a 1 -/
  thresh : TickCount
  /-- clock cycles per tick; OPEN in the spec, and no rule reads it (R7, R118) -/
  clkPerTick : Nat
  /-- byte address of the register window; OPEN in the spec (R30) -/
  base : Nat
deriving DecidableEq, Repr

/-- The constraint column of R5. The upper bounds 65535 are the width of `TickCount`. -/
abbrev Params.InRange (p : Params) : Prop :=
  3000 ≤ p.tWake.toNat ∧ 1 ≤ p.tReq.toNat ∧ 1 ≤ p.toPresL.toNat ∧ 1 ≤ p.toPresH.toNat ∧
  1 ≤ p.toBitL.toNat ∧ 1 ≤ p.toBitH.toNat ∧ 1 ≤ p.clkPerTick ∧ p.base % 32 = 0

/-- What the model requires of its parameters: the constraint column, and THRESH < TO_BIT_H, which "a model should keep"
(R5) and "should require" (93_implementation_defined.md I15). A block with THRESH ≥ TO_BIT_H is "allowed" there, but
decodes no 1: the operations run on it as on any other, and the statements that do not need the requirement take
`Params.InRange` alone. -/
abbrev Params.Valid (p : Params) : Prop := p.InRange ∧ p.thresh.toNat < p.toBitH.toNat

/-- The default column of R5. DESIGN CHOICE (log entry 2), unsafe: `clkPerTick` and `base` are OPEN there, and the
defaults written here (1 and 0) are the model's; no statement rests on them. -/
def Params.default : Params where
  tWake := 3000
  tReq := 25
  toPresL := 85
  toPresH := 85
  toBitL := 56
  toBitH := 75
  thresh := 40
  clkPerTick := 1
  base := 0

/-- The level of the line at tick `n` where no input of the run names it: the line environment's free choice
("A model quantifies over every such choice; no rule constrains it", R10). No body: nothing can be proved of a value
of it (log entry 3). -/
opaque Config.freeLevel : Nat → LineLevel

end Sys2Proof
end

