-- ==== Sys2Proof/Machine/State.lean ====
section
/-! DEFINITION. The state of the SWPD (spec/10_state.md), the inputs that drive it (R10), why a step can stop, and the
state after reset (R27). -/
namespace Sys2Proof.Machine

/-- The 4-bit phase codes of R12: eight named ones, and the codes 8 to 15 that are "never entered"
(`reserved k` is code 8 + k). -/
inductive Phase where
  | idle
  | wake
  | req
  | presL
  | presH
  | bitL
  | bitH
  | meas
  | reserved (k : Fin 8)
deriving DecidableEq, Repr

/-- The code column of R12. -/
def Phase.code : Phase → BitVec 4
  | .idle => 0
  | .wake => 1
  | .req => 2
  | .presL => 3
  | .presH => 4
  | .bitL => 5
  | .bitH => 6
  | .meas => 7
  | .reserved k => BitVec.ofNat 4 (8 + k.val)

/-- Whether a phase code is one of 8 to 15. -/
def Phase.isReserved : Phase → Bool
  | .reserved _ => true
  | .idle | .wake | .req | .presL | .presH | .bitL | .bitH | .meas => false

/-- The 2-bit result codes of R90 (60_exceptions.md); code 3 is never produced. -/
inductive Result where
  | ok
  | timeout
  | checksumError
  | reserved
deriving DecidableEq, Repr

/-- The code column of R90. -/
def Result.code : Result → BitVec 2
  | .ok => 0
  | .timeout => 1
  | .checksumError => 2
  | .reserved => 3

/-- One input of the machine: a step of one of R10's agents, or a reset. Each falls between two others (R10, R36). -/
inductive Event where
  /-- one tick of the sequencer, with the level that the line environment chooses for it (used only where the
  sequencer samples, R64) -/
  | tick (sample : LineLevel)
  /-- a host read at a byte address (R33) -/
  | read (addr : Nat) (width : AccessWidth)
  /-- a host write at a byte address (R35); of a narrow write only the width is modelled, since it is refused (R31) -/
  | write (addr : Nat) (width : AccessWidth) (value : Word)
  /-- a reset, one atomic event between two steps (R110) -/
  | reset
  /-- the reset input is asserted and stays so ("While reset is held", R110) -/
  | assertReset
  /-- the reset input is released -/
  | releaseReset
deriving DecidableEq, Repr

/-- Why the machine stops with a fault. -/
inductive Fault where
  /-- the sequencer's tick, or a read of STATUS, meets a phase code 8 to 15. Safe: unreachable by every rule, and
  93_implementation_defined.md I11 has a model that reaches one record a fault. -/
  | reservedPhase
  /-- a read of STATUS meets RESULT code 3. Safe, as for `reservedPhase` (I11). -/
  | reservedResult
deriving DecidableEq, Repr

/-- Why the model gives an input no meaning. -/
inductive Refusal where
  /-- raised by an arm of `exec` for a command without a meaning; there is none. Safe. -/
  | notModelled (mnemonic : String)
  /-- raised by a host access of width 1 or 2: "A model refuses such an access" (R31). Safe. -/
  | narrowAccess
  /-- raised by a host access at an address that is not a multiple of 4: "A model refuses such an access" (R31). Safe. -/
  | misalignedAccess
  /-- raised by a host access outside BASE to BASE + 0x1F, which is no access of the SWPD: "The SWPD fixes nothing of
  the host's address map outside its own 32-byte window" (R44). Safe. -/
  | outsideWindow
deriving DecidableEq, Repr

/-- The machine. The first seventeen fields are all the state the spec gives the SWPD (10_state.md R12 to R23; BUSY is
computed, R18, and CMD holds no state, R24); the last five are the model's own: the parameters, the reset input, and the
agents' plain data (log entries 1, 4, 5, 6). -/
structure State where
  /-- the sequencer's phase, 4 bits (R12) -/
  phase : Phase
  /-- the tick and hold counter (R13) -/
  cnt : TickCount
  /-- data bits decoded in the current or most recent READ (R14) -/
  bitcnt : BitVec 6
  /-- the frame being assembled (R15) -/
  shreg : BitVec 40
  /-- the expected level of the MEASURE being executed (R16) -/
  mlevel : LineLevel
  /-- the timeout of the MEASURE being executed (R16) -/
  mto : TickCount
  /-- the line driver is on (R17) -/
  lineOe : Bool
  /-- the level the driver drives when it is on (R17) -/
  lineOut : LineLevel
  /-- STATUS.DONE (R18) -/
  done : Bool
  /-- STATUS.RESULT, 2 bits (R18, R90) -/
  result : Result
  /-- STATUS.CMDERR (R18) -/
  cmderr : Bool
  /-- STATUS.ENDPH, 4 bits (R18) -/
  endph : Phase
  /-- FRAME0 (R19) -/
  frame0 : Word
  /-- FRAME1 (R20) -/
  frame1 : Word
  /-- HUM (R21) -/
  hum : Word
  /-- TEMP (R22) -/
  temp : Word
  /-- HOLD (R23) -/
  hold : Word
  /-- the build-time parameters (R5), which no step changes -/
  par : Params
  /-- the reset input is held (R110) -/
  resetHeld : Bool
  /-- the inputs still to come, the next one first (R10, R29) -/
  inbox : List Event
  /-- the words the host's reads have returned, the latest first (R33) -/
  hostReads : List Word
  /-- ticks taken since the start of the run, the number R55 gives the last one -/
  ticks : Nat
deriving DecidableEq, Repr

/-- The state right after reset of an SWPD built with the parameters `p`: the value column of R27. No input is pending
and no read has been made. -/
def State.resetWith (p : Params) : State where
  phase := .idle
  cnt := 0
  bitcnt := 0
  shreg := 0
  mlevel := .low
  mto := 0
  lineOe := false
  lineOut := .low
  done := false
  result := .ok
  cmderr := false
  endph := .idle
  frame0 := 0
  frame1 := 0
  hum := 0
  temp := 0
  hold := 0
  par := p
  resetHeld := false
  inbox := []
  hostReads := []
  ticks := 0

/-- The state right after reset, with R5's defaults. -/
def State.reset : State := State.resetWith Params.default

end Sys2Proof.Machine
end

