-- ==== Sys2Proof/Machine/Flags.lean ====
section
/-! DEFINITION. STATUS as a word and every rule by which a command writes a flag (spec/10_state.md R18, R26;
spec/20_memory.md R33). The flags an operation's end writes are in `finish` (Machine/Ops.lean). -/
namespace Sys2Proof.Machine

/-- STATUS.BUSY, computed from `phase`, not stored (R18). -/
def State.busy (s : State) : Bool := decide (s.phase ≠ .idle)

/-- STATUS as a host reads it: the expression of R33. -/
def statusWord (s : State) : Word :=
  (s.bitcnt.zeroExtend 32 <<< 16) ||| (s.endph.code.zeroExtend 32 <<< 12) ||| (s.phase.code.zeroExtend 32 <<< 8)
    ||| ((BitVec.ofBool s.cmderr).zeroExtend 32 <<< 4) ||| (s.result.code.zeroExtend 32 <<< 2)
    ||| ((BitVec.ofBool s.done).zeroExtend 32 <<< 1) ||| (BitVec.ofBool s.busy).zeroExtend 32

/-- The reserved code that a read of STATUS would show, if any (93_implementation_defined.md I11). -/
def statusFault (s : State) : Option Fault :=
  if s.phase.isReserved || s.endph.isReserved then some .reservedPhase
  else if s.result = .reserved then some .reservedResult
  else none

/-- The flags at the acceptance of READ or MEASURE: CMDERR, DONE and RESULT become 0 (R26, R63, R70). -/
def acceptFlags (s : State) : State := { s with cmderr := false, done := false, result := .ok }

/-- The flag at the acceptance of NOP: CMDERR becomes 0, the others are unchanged (R26, R62). -/
def clearCommandError (s : State) : State := { s with cmderr := false }

/-- A rejected command "changes nothing but CMDERR" (R26, R49). -/
def rejectCommand (s : State) : State := { s with cmderr := true }

end Sys2Proof.Machine
end

