-- ==== Sys2Proof/Machine/Operands.lean ====
section
/-! DEFINITION. What the operations read: the expected level and timeout of a hold (spec/40_signal_timer.md R60), the
bytes of a frame, its checksum and its two readings (spec/20_memory.md R41, R42; spec/41_frame_decoder.md R78, R79,
R82, R83), and the register a host access reaches (spec/20_memory.md R30, R31). -/
namespace Sys2Proof.Machine

/-- The table of R60: the expected level and the timeout of a hold phase; none in a phase that measures no hold. -/
def holdParams (s : State) : Option (LineLevel × TickCount) :=
  match s.phase with
  | .presL => some (.low, s.par.toPresL)
  | .presH => some (.high, s.par.toPresH)
  | .bitL => some (.low, s.par.toBitL)
  | .bitH => some (.high, s.par.toBitH)
  | .meas => some (s.mlevel, s.mto)
  | .idle | .wake | .req | .reserved _ => none

/-! A complete frame in `shreg`: byte K is `shreg[39 − 8K : 32 − 8K]` (R42). -/

def frameByte0 (f : BitVec 40) : Byte := f.extractLsb' 32 8
def frameByte1 (f : BitVec 40) : Byte := f.extractLsb' 24 8
def frameByte2 (f : BitVec 40) : Byte := f.extractLsb' 16 8
def frameByte3 (f : BitVec 40) : Byte := f.extractLsb' 8 8
def frameByte4 (f : BitVec 40) : Byte := f.extractLsb' 0 8

/-- The low 8 bits of the sum of bytes 0 to 3 (R78); the addition of bytes wraps modulo 256. -/
def checksum (b0 b1 b2 b3 : Byte) : Byte := b0 + b1 + b2 + b3

/-- Whether a complete frame's byte 4 is its checksum (R78). -/
def frameOk (f : BitVec 40) : Bool :=
  frameByte4 f == checksum (frameByte0 f) (frameByte1 f) (frameByte2 f) (frameByte3 f)

/-- FRAME0: `b0 ++ b1 ++ b2 ++ b3` (R79). -/
def frame0Word (b0 b1 b2 b3 : Byte) : Word := b0 ++ b1 ++ b2 ++ b3

/-- HUM: the humidity in tenths, `zext_32(b0 ++ b1)` (R79, R82). -/
def humidityWord (b0 b1 : Byte) : Word := (b0 ++ b1).zeroExtend 32

/-- `mag`: `zext_32(b2[6:0] ++ b3)` (R79). -/
def temperatureMagnitude (b2 b3 : Byte) : Word := (b2.extractLsb' 0 7 ++ b3).zeroExtend 32

/-- TEMP: the temperature in tenths, two's complement of the sign-magnitude value (R79, R83). -/
def temperatureWord (b2 b3 : Byte) : Word :=
  if b2.getLsbD 7 then 0 - temperatureMagnitude b2 b3 else temperatureMagnitude b2 b3

/-- One decoded bit enters at bit 0 and moves every earlier bit up: `shreg[38:0] ++ b` (R76, R77). -/
def shiftIn (f : BitVec 40) (b : Bool) : BitVec 40 := f.extractLsb' 0 39 ++ BitVec.ofBool b

/-- The bit a BIT_H hold of count `n` decodes to: strictly more than THRESH is 1 (R76). -/
def bitOfCount (p : Params) (n : TickCount) : Bool := decide (n.toNat > p.thresh.toNat)

/-- The register map (10_state.md section 4). -/
def Reg.ofOffset : Nat → Option Reg
  | 0x00 => some .cmd
  | 0x04 => some .status
  | 0x08 => some .frame0
  | 0x0C => some .frame1
  | 0x10 => some .hum
  | 0x14 => some .temp
  | 0x18 => some .hold
  | 0x1C => some .reserved
  | _ => none

/-- The register a host access reaches: an aligned 32-bit access at BASE to BASE + 0x1C; every other access is refused
under its own name (R31, R44). -/
def accessReg (base addr : Nat) (width : AccessWidth) : Except Refusal Reg :=
  if width ≠ .word then .error .narrowAccess
  else if addr % 4 ≠ 0 then .error .misalignedAccess
  else if addr < base then .error .outsideWindow
  else
    match Reg.ofOffset (addr - base) with
    | some r => .ok r
    | none => .error .outsideWindow

end Sys2Proof.Machine
end

