-- ==== Sys2Proof/Machine/Ops.lean ====
section
/-! DEFINITION. The operations the meanings share: the one end of every operation (the SWPD's only "trap",
spec/60_exceptions.md R94, R98; there is no return from it), the counting of one sample (spec/40_signal_timer.md R60,
R61), reset (spec/70_reset_and_hazards.md R110), the register window's read value (spec/20_memory.md R33), and the line
driver (spec/10_state.md R17). -/
namespace Sys2Proof.Machine

/-- `Finish(r)`: how every operation ends (R94). `raise Timeout` and `raise ChecksumError` stand for it. -/
def finish (r : Result) (s : State) : State :=
  { s with
    result := r
    done := true
    endph := s.phase
    phase := .idle
    cnt := 0
    lineOe := false
    lineOut := .low }

/-- One more sample at the expected level of a hold with timeout `timeout`: TIMEOUT where the count would exceed it,
compared without wrapping, else the count goes up by one (R60, the branch `s == exp`). -/
def countSample (timeout : TickCount) (s : State) : State :=
  if s.cnt.toNat + 1 > timeout.toNat then finish .timeout s else { s with cnt := s.cnt + 1 }

/-- A hold phase begins with no sample counted (R61). -/
def startHold (p : Phase) (s : State) : State := { s with phase := p, cnt := 0 }

/-- `phase <- p; cnt <- 0; HoldStep(s)` of R61 and R76. The levels of a READ alternate, so the sample passed on is at
the new hold's expected level and is counted there; Obligations.HoldStepMeetsTheRecursion states that this is R60's and
R61's recursion. -/
def nextHold (p : Phase) (s : State) : State :=
  match holdParams (startHold p s) with
  | some (_, timeout) => countSample timeout (startHold p s)
  | none => startHold p s

/-- What a reset does (R110, R111): every piece of the SWPD's state at the value of R27, and the reset input not held.
The parameters, the inputs still to come, the words the host has read and the run's tick number are no state of the
SWPD (R29). -/
def resetDevice (s : State) : State :=
  { State.resetWith s.par with inbox := s.inbox, hostReads := s.hostReads, ticks := s.ticks }

/-- The register values of R33, CMD and the reserved offset reading 0 (R24, R25). -/
def readReg (s : State) : Reg → Word
  | .cmd => 0
  | .status => statusWord s
  | .frame0 => s.frame0
  | .frame1 => s.frame1
  | .hum => s.hum
  | .temp => s.temp
  | .hold => s.hold
  | .reserved => 0

/-- The level the SWPD drives the line to, none where it does not drive it (R17). -/
def lineDrive (s : State) : Option LineLevel := if s.lineOe then some s.lineOut else none

end Sys2Proof.Machine
end

