-- ==== Sys2Proof/Machine/FrameDecoder.lean ====
section
/-! DEFINITION. READ: its acceptance, the wake and request pulses, a bit's decoding, the checksum and the publication of
a frame (spec/41_frame_decoder.md R70 to R81). -/
namespace Sys2Proof.Machine

/-- `AcceptRead()` (R70). -/
def acceptRead (s : State) : State :=
  { acceptFlags s with cnt := 0, bitcnt := 0, shreg := 0, lineOe := true, lineOut := .low, phase := .wake }

/-- READ: accepted in IDLE; rejected while an operation runs (R49, R70). -/
def execRead (s : State) : Host.Outcome State Fault Refusal :=
  if s.phase = .idle then .next (acceptRead s) else .next (rejectCommand s)

/-- `WakeTick()` (R71). -/
def wakeTick (s : State) : State :=
  if s.cnt + 1 = s.par.tWake then { s with lineOut := .high, cnt := 0, phase := .req }
  else { s with cnt := s.cnt + 1 }

/-- `ReqTick()` (R72). -/
def reqTick (s : State) : State :=
  if s.cnt + 1 = s.par.tReq then { s with lineOe := false, lineOut := .low, cnt := 0, phase := .presL }
  else { s with cnt := s.cnt + 1 }

/-- `Commit(b0, b1, b2, b3, b4)` of the frame in `shreg` (R79). -/
def commit (s : State) : State :=
  { s with
    frame0 := frame0Word (frameByte0 s.shreg) (frameByte1 s.shreg) (frameByte2 s.shreg) (frameByte3 s.shreg)
    frame1 := (frameByte4 s.shreg).zeroExtend 32
    hum := humidityWord (frameByte0 s.shreg) (frameByte1 s.shreg)
    temp := temperatureWord (frameByte2 s.shreg) (frameByte3 s.shreg) }

/-- `Complete()`: the checksum decides between publication and CHECKSUM_ERROR (R78, R80). -/
def complete (s : State) : State :=
  if frameOk s.shreg then finish .ok (commit s) else finish .checksumError s

/-- The decoded bit of a BIT_H hold of count `n` is shifted in and counted (R76, R77). -/
def takeBit (n : TickCount) (s : State) : State :=
  { s with shreg := shiftIn s.shreg (bitOfCount s.par n), bitcnt := s.bitcnt + 1 }

/-- `DecodeBit(n, s)`: the 40th bit completes the frame; any other bit's ending sample starts the next bit's low
hold (R76). -/
def decodeBit (n : TickCount) (s : State) : State :=
  if (takeBit n s).bitcnt = 40 then complete (takeBit n s) else nextHold .bitL (takeBit n s)

end Sys2Proof.Machine
end

