-- ==== Sys2Proof/Machine/SignalTimer.lean ====
section
/-! DEFINITION. NOP and MEASURE (spec/40_signal_timer.md sections 3 and 4). -/
namespace Sys2Proof.Machine

/-- NOP: accepted in every phase, clears CMDERR (R62). -/
def execNop (s : State) : Host.Outcome State Fault Refusal := .next (clearCommandError s)

/-- `AcceptMeasure(level, timeout)` (R63). -/
def acceptMeasure (level : LineLevel) (timeout : TickCount) (s : State) : State :=
  { acceptFlags s with mlevel := level, mto := timeout, cnt := 0, phase := .meas }

/-- MEASURE: accepted in IDLE; rejected while an operation runs (R49, R63). -/
def execMeasure (level : LineLevel) (timeout : TickCount) (s : State) : Host.Outcome State Fault Refusal :=
  if s.phase = .idle then .next (acceptMeasure level timeout s) else .next (rejectCommand s)

/-- `MeasureEnd(n)`: HOLD takes the count and the operation ends OK (R65). -/
def measureEnd (n : TickCount) (s : State) : State := finish .ok { s with hold := n.zeroExtend 32 }

end Sys2Proof.Machine
end

