-- ==== Sys2Proof/Machine/Bus.lean ====
section
/-! DEFINITION. The host's reads and writes of the register window (spec/20_memory.md R31, R33, R35;
spec/30_encoding.md R49). -/
namespace Sys2Proof.Machine

/-- `CommandWrite(v)` (R49): the command the word is, or a rejection. -/
def commandWrite (v : Word) (s : State) : Host.Outcome State Fault Refusal :=
  match decode v with
  | .ok i => exec i s
  | .error _ => .next (rejectCommand s)

/-- The word a read returns goes to the host; nothing else changes (R33, R34). -/
def returnWord (v : Word) (s : State) : State := { s with hostReads := v :: s.hostReads }

/-- A read of a register. While reset is held "every read returns 0" (R110). -/
def readAccess (r : Reg) (s : State) : Host.Outcome State Fault Refusal :=
  if s.resetHeld then .next (returnWord 0 s)
  else
    match r, statusFault s with
    | .status, some f => .fault f
    | _, _ => .next (returnWord (readReg s r) s)

/-- A write of a register: only CMD takes it (R35). While reset is held the block "ignores every write" (R110). -/
def writeAccess (r : Reg) (v : Word) (s : State) : Host.Outcome State Fault Refusal :=
  if s.resetHeld then .next s
  else
    match r with
    | .cmd => commandWrite v s
    | .status | .frame0 | .frame1 | .hum | .temp | .hold | .reserved => .next s

/-- `MemRead` at a byte address (R31, R33). -/
def busRead (addr : Nat) (width : AccessWidth) (s : State) : Host.Outcome State Fault Refusal :=
  match accessReg s.par.base addr width with
  | .ok r => readAccess r s
  | .error e => .refused e

/-- `MemWrite` at a byte address (R31, R35). -/
def busWrite (addr : Nat) (width : AccessWidth) (v : Word) (s : State) : Host.Outcome State Fault Refusal :=
  match accessReg s.par.base addr width with
  | .ok r => writeAccess r v s
  | .error e => .refused e

end Sys2Proof.Machine
end

