-- ==== Sys2Proof/Machine/Sequencer.lean ====
section
/-! DEFINITION. The sequencer's tick and the hold measurement (spec/40_signal_timer.md R60, R61, R64). -/
namespace Sys2Proof.Machine

/-- `EndHold(n, s)`: what follows a hold that ended with count `n` (R61). A phase that measures no hold ends none. -/
def endHold (n : TickCount) (s : State) : State :=
  match s.phase with
  | .presL => nextHold .presH s
  | .presH => nextHold .bitL s
  | .bitL => nextHold .bitH s
  | .bitH => decodeBit n s
  | .meas => measureEnd n s
  | .idle | .wake | .req | .reserved _ => s

/-- `HoldStep(s)`: one step of the hold measurement with a sample (R60). A phase that measures no hold takes none. -/
def holdStep (sample : LineLevel) (s : State) : State :=
  match holdParams s with
  | some (level, timeout) => if sample = level then countSample timeout s else endHold s.cnt s
  | none => s

/-- `Tick()` (R64): the sample is used only in a hold phase. A phase code 8 to 15 is a fault
(93_implementation_defined.md I11). -/
def tick (sample : LineLevel) (s : State) : Host.Outcome State Fault Refusal :=
  match s.phase with
  | .idle => .next s
  | .wake => .next (wakeTick s)
  | .req => .next (reqTick s)
  | .presL | .presH | .bitL | .bitH | .meas => .next (holdStep sample s)
  | .reserved _ => .fault .reservedPhase

end Sys2Proof.Machine
end

