-- ==== Sys2Proof/Machine/Events.lean ====
section
/-! DEFINITION. One input of the machine, performed (spec/10_state.md R10; spec/70_reset_and_hazards.md R110). -/
namespace Sys2Proof.Machine

/-- A tick of the time base. "While reset is held the block takes no tick" (R110). -/
def tickEvent (sample : LineLevel) (s : State) : Host.Outcome State Fault Refusal :=
  if s.resetHeld then .next s else tick sample { s with ticks := s.ticks + 1 }

/-- One input, performed. -/
def perform (e : Event) (s : State) : Host.Outcome State Fault Refusal :=
  match e with
  | .tick sample => tickEvent sample s
  | .read addr width => busRead addr width s
  | .write addr width v => busWrite addr width v s
  | .reset => .next (resetDevice s)
  | .assertReset => .next { resetDevice s with resetHeld := true }
  | .releaseReset => .next { s with resetHeld := false }

/-- The input the next step performs: the first one pending; with none pending time passes, one tick whose sample is
the line environment's free choice (R10; log entries 3 and 4). -/
def nextEvent (s : State) : Event :=
  match s.inbox with
  | e :: _ => e
  | [] => .tick (Config.freeLevel (s.ticks + 1))

/-- The state with that input taken out of the pending ones. -/
def takeEvent (s : State) : State := { s with inbox := s.inbox.tail }

end Sys2Proof.Machine
end

