-- ==== Sys2Proof/Machine/Step.lean ====
section
/-! DEFINITION. One step: the next input, performed. The SWPD fetches no instructions (spec/20_memory.md R40): a command
comes to it as a host write of CMD, so the place the next instruction comes from is the front of the inputs. -/
namespace Sys2Proof.Machine

/-- One step of the machine. -/
def step (s : State) : Host.Outcome State Fault Refusal := perform (nextEvent s) (takeEvent s)

/-- `s` with the host's next access an aligned 32-bit write of the command word `w` to CMD (offset 0 of the window), and
the reset input not held, since a block held in reset ignores every write (R110; log entry 7). -/
def State.withFetchWord (s : State) (nbits w : Nat) : State :=
  { s with
    resetHeld := false
    inbox := .write s.par.base .word (BitVec.ofNat 32 (w % 2 ^ nbits)) :: s.inbox }

end Sys2Proof.Machine
end

