-- ==== Sys2Proof/Machine/HostView.lean ====
section
/-! DEFINITION. The host-side interpretation of HUM, TEMP and FRAME0 as binary32 numbers (spec/41_frame_decoder.md R84).
The SWPD itself "makes no floating-point computation": no step calls these functions. -/
namespace Sys2Proof.Machine

/-- Doubles `x` until it reaches `bound`, at most `fuel` times, counting the doublings. -/
def scaleUp (bound : Nat) : Nat → Nat → Nat → Nat × Nat
  | 0, k, x => (k, x)
  | fuel + 1, k, x => if bound ≤ x then (k, x) else scaleUp bound fuel (k + 1) (2 * x)

/-- `x / 10` rounded to the nearest integer, ties to even. -/
def divTenEven (x : Nat) : Nat :=
  if x % 10 > 5 ∨ (x % 10 = 5 ∧ x / 10 % 2 = 1) then x / 10 + 1 else x / 10

/-- `RoundBinary32(n / 10)` for the 16-bit integers HUM and `mag` can be (R84): scaled by 2^k into
[2^23, 2^24) tenths, rounded, and laid out as exponent field 150 − k over the 23 fraction bits; a significand rounded up
to 2^24 carries into the exponent field. -/
def roundTenths (n : BitVec 16) : Word :=
  if n = 0 then 0
  else
    let (k, x) := scaleUp (10 * 2 ^ 23) 32 0 n.toNat
    BitVec.ofNat 32 ((150 - k) * 2 ^ 23 + (divTenEven x - 2 ^ 23))

/-- Negation of a binary32 number: its sign bit flips, so the negative of 0.0 is −0.0 (R84). -/
def negateBinary32 (v : Word) : Word := v ^^^ 0x80000000

/-- `humidity_f` of the values read from HUM (R84). -/
def humidityFloat (hum : Word) : Word := roundTenths (hum.extractLsb' 0 16)

/-- `temperature_f` of the value read from FRAME0: the magnitude is FRAME0[14:0], the sign FRAME0[15], and the negation
follows the division (R84). -/
def temperatureFloat (frame0 : Word) : Word :=
  let mag := roundTenths ((frame0.extractLsb' 0 15).zeroExtend 16)
  if frame0.getLsbD 15 then negateBinary32 mag else mag

end Sys2Proof.Machine
end

