-- ==== Sys2Proof/Safety.lean ====
section
/-! DEFINITION. The terms the claims use: the invariant of the machine, runs of ticks and of inputs, the line samples of a
frame, and the bounds on a READ's length. -/
namespace Sys2Proof.Machine

/-- The phases in which a READ measures a hold. -/
def Phase.isReadHold : Phase → Bool
  | .presL | .presH | .bitL | .bitH => true
  | .idle | .wake | .req | .meas | .reserved _ => false

/-- The phases of a READ. -/
def Phase.isRead : Phase → Bool
  | .wake | .req | .presL | .presH | .bitL | .bitH => true
  | .idle | .meas | .reserved _ => false

/-- The phases of a READ before its first data bit. -/
def Phase.isBeforeBits : Phase → Bool
  | .wake | .req | .presL | .presH => true
  | .idle | .bitL | .bitH | .meas | .reserved _ => false

/-- The phases that measure a data bit's holds. -/
def Phase.isBit : Phase → Bool
  | .bitL | .bitH => true
  | .idle | .wake | .req | .presL | .presH | .meas | .reserved _ => false

/-- What holds of the SWPD's state after reset and after every step. -/
structure Inv (s : State) : Prop where
  /-- the constraints of R5, THRESH < TO_BIT_H among them (I15) -/
  params : s.par.Valid
  /-- phase codes 8 to 15 are never entered (R12) -/
  phase_named : s.phase.isReserved = false
  /-- ENDPH is 0 before the first end, and then the hold phase an operation ended in (R94) -/
  endph_hold : s.endph = .idle ∨ s.endph.isReadHold = true ∨ s.endph = .meas
  /-- RESULT code 3 is never produced (R90) -/
  result_named : s.result ≠ .reserved
  /-- RESULT reads 0 while DONE = 0 (R90) -/
  result_needs_done : s.done = false → s.result = .ok
  /-- DONE is cleared at acceptance and set only by the end (R26) -/
  busy_not_done : s.phase ≠ .idle → s.done = false
  /-- `cnt` is 0 in IDLE (R13) -/
  cnt_idle : s.phase = .idle → s.cnt = 0
  /-- WAKE ends at T_WAKE ticks (R71) -/
  cnt_wake : s.phase = .wake → s.cnt.toNat < s.par.tWake.toNat
  /-- REQ ends at T_REQ ticks (R72) -/
  cnt_req : s.phase = .req → s.cnt.toNat < s.par.tReq.toNat
  /-- a hold's count never exceeds its timeout (R13) -/
  cnt_hold : ∀ level timeout, holdParams s = some (level, timeout) → s.cnt.toNat ≤ timeout.toNat
  /-- every hold but the presence low hold and MEASURE's starts with count 1 (R61, R86) -/
  cnt_started : s.phase = .presH ∨ s.phase.isBit = true → 1 ≤ s.cnt.toNat
  /-- the line is driven only in WAKE and REQ (R17) -/
  line_enabled : s.lineOe = decide (s.phase = .wake ∨ s.phase = .req)
  /-- the line is driven low in WAKE and high in REQ; `line_out` is 0 elsewhere (R17) -/
  line_level : s.lineOut = if s.phase = .req then .high else .low
  /-- `bitcnt` holds 0 to 40 (R14) -/
  bitcnt_range : s.bitcnt.toNat ≤ 40
  /-- no bit is decoded before the presence pulse has ended (R70) -/
  bitcnt_before : s.phase.isBeforeBits = true → s.bitcnt = 0
  /-- a READ ends in the tick that decodes the 40th bit (R76) -/
  bitcnt_bits : s.phase.isBit = true → s.bitcnt.toNat < 40
  /-- before all 40 bits are in, the unfilled high bits of `shreg` are 0 (R77) -/
  shreg_fill : s.phase.isRead = true → s.shreg.toNat < 2 ^ s.bitcnt.toNat
  /-- an operation that ended OK was a READ with its 40 bits or a MEASURE (R90) -/
  ended_ok : s.done = true → s.result = .ok →
    (s.endph = .bitH ∧ s.bitcnt = 40) ∨ s.endph = .meas
  /-- TIMEOUT is raised in a hold phase, in a READ with fewer than 40 bits decoded (R91) -/
  ended_timeout : s.done = true → s.result = .timeout →
    (s.endph.isReadHold = true ∧ s.bitcnt.toNat ≤ 39) ∨ s.endph = .meas
  /-- CHECKSUM_ERROR is raised in BIT_H after 40 bits (R92) -/
  ended_checksum : s.done = true → s.result = .checksumError → s.endph = .bitH ∧ s.bitcnt = 40
  /-- FRAME0 and FRAME1 hold a frame that passed its checksum, or the zeros of reset, which pass it too (R95) -/
  frame_checked : s.frame1 = (checksum (s.frame0.extractLsb' 24 8) (s.frame0.extractLsb' 16 8)
    (s.frame0.extractLsb' 8 8) (s.frame0.extractLsb' 0 8)).zeroExtend 32
  /-- HUM is that frame's humidity (R21) -/
  hum_of_frame : s.hum = (s.frame0.extractLsb' 16 16).zeroExtend 32
  /-- TEMP is that frame's temperature (R22) -/
  temp_of_frame : s.temp = temperatureWord (s.frame0.extractLsb' 8 8) (s.frame0.extractLsb' 0 8)
  /-- HOLD's bits 31:16 read 0 (R23) -/
  hold_range : s.hold.toNat < 65536
  /-- a block held in reset stays in its reset state (R110) -/
  held_in_reset : s.resetHeld = true → s = { resetDevice s with resetHeld := true }

/-- The four flags of R26: BUSY, DONE, RESULT, CMDERR. -/
def flags (s : State) : Bool × Bool × Result × Bool := (s.busy, s.done, s.result, s.cmderr)

/-- Ticks of the sequencer, one for each sample, with no host access between them. -/
def runTicks : List LineLevel → State → Host.Outcome State Fault Refusal
  | [], s => .next s
  | l :: ls, s =>
    match tick l s with
    | .next t => runTicks ls t
    | .fault f => .fault f
    | .refused r => .refused r

/-- Inputs performed one after another. -/
def performAll : List Event → State → Host.Outcome State Fault Refusal
  | [], s => .next s
  | e :: es, s =>
    match perform e s with
    | .next t => performAll es t
    | .fault f => .fault f
    | .refused r => .refused r

/-- A host access that the SWPD defines: aligned, 32 bits wide, inside the window (R31). -/
def definedAccess (base addr : Nat) (width : AccessWidth) : Prop :=
  width = .word ∧ addr % 4 = 0 ∧ base ≤ addr ∧ addr ≤ base + 0x1C

/-- The lengths in samples of a data bit's low and high hold. -/
structure BitHold where
  low : Nat
  high : Nat
deriving DecidableEq, Repr

/-- The samples of a bit's two holds. -/
def BitHold.samples (b : BitHold) : List LineLevel :=
  List.replicate b.low .low ++ List.replicate b.high .high

/-- A bit's holds keep within the timeouts and decode to `v` (R75, R76). -/
def BitHold.Carries (p : Params) (b : BitHold) (v : Bool) : Prop :=
  1 ≤ b.low ∧ b.low ≤ p.toBitL.toNat ∧ 1 ≤ b.high ∧ b.high ≤ p.toBitH.toNat ∧
  (v = true ↔ p.thresh.toNat < b.high)

/-- The samples of a sensor's answer from the release of the line to the sample that ends the 40th bit: the presence
holds of `presLow` and `presHigh` samples, the bits' holds, and one low sample (R87). -/
def answerSamples (presLow presHigh : Nat) (bits : List BitHold) : List LineLevel :=
  List.replicate presLow .low ++ List.replicate presHigh .high ++ bits.flatMap BitHold.samples ++ [.low]

/-- The sensor's answer carries the frame `f`, most significant bit first, within the timeouts (R73 to R77). A presence
low hold of no samples is accepted (R86). -/
def AnswerCarries (p : Params) (presLow presHigh : Nat) (bits : List BitHold) (f : BitVec 40) : Prop :=
  presLow ≤ p.toPresL.toNat ∧ 1 ≤ presHigh ∧ presHigh ≤ p.toPresH.toNat ∧ bits.length = 40 ∧
  ∀ k, k < 40 → ∃ b, bits[k]? = some b ∧ b.Carries p (f.getMsbD k)

/-- S0, the tick of a READ's first line sample (R72). -/
def firstSampleTick (p : Params) : Nat := p.tWake.toNat + p.tReq.toNat + 1

/-- The tick after which no READ is busy (R87, R122). -/
def longestRead (p : Params) : Nat :=
  firstSampleTick p + p.toPresL.toNat + p.toPresH.toNat + 40 * (p.toBitL.toNat + p.toBitH.toNat)

/-- The earliest tick at which a READ can end with TIMEOUT (R122). -/
def earliestReadTimeout (p : Params) : Nat :=
  firstSampleTick p +
    min (min p.toPresL.toNat p.toPresH.toNat) (min (1 + p.toBitL.toNat) (2 + p.toBitH.toNat))

end Sys2Proof.Machine
end

