-- ==== Sys2Proof/Certificates/Slice0/Obligations.lean ====
section
/-! DEFINITION. The statements about the SWPD, for the provers. Each docstring names the rule of spec/ it formalises, or
says what of it is the model's own choice. -/

open Sys2Proof Sys2Proof.Machine

/-! ## The command word (spec/30_encoding.md) -/

/-- Words written out bit by bit from R45's diagram decode to the commands they stand for, and the words of
95_test_vectors.md section 5 that are no commands are rejected. -/
def Obligations.SampleWordsDecode : Prop :=
  decode 0b00000000000000000000000000000000#32 = .ok .nop ∧
  decode 0b00000000000000000000000000000001#32 = .ok .read ∧
  decode 0b00000000000010100000000100000010#32 = .ok (.measure .high 10) ∧
  decode 0b00000000000010100000000000000010#32 = .ok (.measure .low 10) ∧
  decode 0b11111111111111110000000100000010#32 = .ok (.measure .high 65535) ∧
  decode 0b00000000000000000000000000000010#32 = .ok (.measure .low 0) ∧
  decode 0b00000000000000000000000000000011#32 = .error .reservedOp ∧
  decode 0b00000000000000000000000000010000#32 = .error .reservedBits ∧
  decode 0b00000000000000000000001000000010#32 = .error .reservedBits ∧
  decode 0b00000000000000000000000100000001#32 = .error .readOperands ∧
  decode 0b00000000000000010000000000000000#32 = .error .nopOperands

/-- Decoding the word of any well-formed command gives the command back, with every operand at every value, and a
word that decodes to a command is that command's word (R45 to R49). -/
def Obligations.DecodeInvertsEncode : Prop :=
  (∀ i : Instr, i.wellFormed = true → decode (encode i) = .ok i) ∧
  (∀ (v : Word) (i : Instr), decode v = .ok i → encode i = v)

/-- R53 and R54: every written command and pseudo-instruction assembles to the word given there, and one with an
operand out of range to none. -/
def Obligations.WrittenCommandsHaveTheirWords : Prop :=
  Asm.nop.assemble.map encode = some 0x00000000 ∧
  Asm.read.assemble.map encode = some 0x00000001 ∧
  Asm.clrerr.assemble.map encode = some 0x00000000 ∧
  (∀ level t : Nat, level ≤ 1 → t ≤ 65535 →
    (Asm.measure level t).assemble.map encode = some (BitVec.ofNat 32 ((t <<< 16) ||| (level <<< 8) ||| 0x2))) ∧
  (∀ t : Nat, t ≤ 65535 →
    (Asm.measureLow t).assemble.map encode = some (BitVec.ofNat 32 ((t <<< 16) ||| 0x002)) ∧
    (Asm.measureHigh t).assemble.map encode = some (BitVec.ofNat 32 ((t <<< 16) ||| 0x102)) ∧
    (Asm.measureLow t).assemble = (Asm.measure 0 t).assemble ∧
    (Asm.measureHigh t).assemble = (Asm.measure 1 t).assemble) ∧
  (∀ level t : Nat, ¬ (level ≤ 1 ∧ t ≤ 65535) → (Asm.measure level t).assemble = none)

/-- How many words are NOP, READ and MEASURE, and how many are reserved: R51, which the spec marks as its own inference
("[derived: from rules R45, R46, R50]"). -/
def Obligations.CommandWordCounts : Prop :=
  {v : Word | decode v = .ok .nop}.ncard = 1 ∧
  {v : Word | decode v = .ok .read}.ncard = 1 ∧
  {v : Word | ∃ level timeout, decode v = .ok (.measure level timeout)}.ncard = 131072 ∧
  {v : Word | ∃ e, decode v = .error e}.ncard = 2 ^ 32 - 131074

/-- R50: the reserved encodings are exactly the four classes listed there, and a write of one sets CMDERR and changes
nothing else. -/
def Obligations.ReservedWordsOnlySetCommandError : Prop :=
  ∀ v : Word,
    ((∃ e, decode v = .error e) ↔
      0x3 ≤ (v.extractLsb' 0 4).toNat ∨ v.extractLsb' 4 4 ≠ 0 ∨ v.extractLsb' 9 7 ≠ 0 ∨
      (v.extractLsb' 0 4 = 0x0 ∧ v ≠ 0x00000000) ∨ (v.extractLsb' 0 4 = 0x1 ∧ v ≠ 0x00000001)) ∧
    ((∃ e, decode v = .error e) → ∀ s : State, commandWrite v s = .next { s with cmderr := true })

/-- Each row of spec/opcode_table.json: a word decodes to the row's command exactly when it has the row's match under
the row's mask, and MEASURE's operands are the row's fields LEVEL (bit 8) and TIMEOUT (bits 31:16). -/
def Obligations.DecodingFollowsTheOpcodeTable : Prop :=
  ∀ v : Word,
    (decode v = .ok .nop ↔ v &&& 0xFFFFFFFF = 0x00000000) ∧
    (decode v = .ok .read ↔ v &&& 0xFFFFFFFF = 0x00000001) ∧
    ((∃ level timeout, decode v = .ok (.measure level timeout)) ↔ v &&& 0x0000FEFF = 0x00000002) ∧
    (∀ level timeout, decode v = .ok (.measure level timeout) →
      level.bit = v.extractLsb' 8 1 ∧ timeout = v.extractLsb' 16 16)

/-- R49, `CommandWrite(v)`, over the bits of the word, with the acceptances of R62, R63 and R70 written out. -/
def Obligations.CommandWriteFollowsItsPseudocode : Prop :=
  ∀ (v : Word) (s : State), commandWrite v s =
    if v = 0x00000000 then .next { s with cmderr := false }
    else if v.extractLsb' 4 4 ≠ 0 ∨ v.extractLsb' 9 7 ≠ 0 then .next { s with cmderr := true }
    else if v.extractLsb' 0 4 = 0x1 ∧ v.extractLsb' 8 24 = 0 then
      if s.phase ≠ .idle then .next { s with cmderr := true }
      else .next { s with
        cmderr := false, done := false, result := .ok, cnt := 0, bitcnt := 0, shreg := 0, lineOe := true,
        lineOut := .low, phase := .wake }
    else if v.extractLsb' 0 4 = 0x2 then
      if s.phase ≠ .idle then .next { s with cmderr := true }
      else .next { s with
        cmderr := false, done := false, result := .ok, mlevel := if v.getLsbD 8 then .high else .low,
        mto := v.extractLsb' 16 16, cnt := 0, phase := .meas }
    else .next { s with cmderr := true }

/-! ## The commands' own effects -/

/-- R62: NOP is the word 0, it completes in every phase, and it clears CMDERR and changes nothing else; a word with
OP = 0 and any other bit set is rejected; the example's STATUS 0x10 becomes 0. -/
def Obligations.NopClearsTheCommandError : Prop :=
  encode .nop = 0x00000000 ∧
  (∀ s : State, exec .nop s = .next { s with cmderr := false }) ∧
  (∀ v : Word, v.extractLsb' 0 4 = 0 → v ≠ 0 → ∃ e, decode v = .error e) ∧
  (∀ s : State, statusWord s = 0x00000010 → statusWord { s with cmderr := false } = 0x00000000)

/-- READ completes in IDLE, with the acceptance of R70's pseudocode. -/
def Obligations.ReadIsAcceptedInIdle : Prop :=
  ∀ s : State, s.phase = .idle →
    exec .read s = .next { s with
      cmderr := false, done := false, result := .ok, cnt := 0, bitcnt := 0, shreg := 0, lineOe := true,
      lineOut := .low, phase := .wake }

/-- MEASURE completes in IDLE for every level and timeout, with the acceptance of R63's pseudocode. -/
def Obligations.MeasureIsAcceptedInIdle : Prop :=
  ∀ (level : LineLevel) (timeout : TickCount) (s : State), s.phase = .idle →
    exec (.measure level timeout) s = .next { s with
      cmderr := false, done := false, result := .ok, mlevel := level, mto := timeout, cnt := 0, phase := .meas }

/-- R93: the causes of a rejection are a reserved encoding and a READ or MEASURE while an operation runs; it sets CMDERR
and nothing else, whatever the cause or the word; every other command write clears CMDERR. -/
def Obligations.RejectionsAndTheirCauses : Prop :=
  ∀ (v : Word) (s : State),
    (((∃ e, decode v = .error e) ∨ (s.phase ≠ .idle ∧ ∃ i, decode v = .ok i ∧ i ≠ .nop)) →
      commandWrite v s = .next { s with cmderr := true }) ∧
    (¬ ((∃ e, decode v = .error e) ∨ (s.phase ≠ .idle ∧ ∃ i, decode v = .ok i ∧ i ≠ .nop)) →
      ∃ t, commandWrite v s = .next t ∧ t.cmderr = false)

/-- The frame of NOP, READ and MEASURE: the registers other than STATUS read as before, ENDPH, the parameters and the
agents' data are unchanged; only READ writes `bitcnt`, `shreg` and the line driver, only MEASURE `mlevel` and `mto`; NOP
leaves the sequencer and DONE and RESULT alone, and so does every command while an operation runs. CMDERR is written by
all three; READ and MEASURE, when accepted, also write DONE, RESULT, `cnt` and `phase`. -/
def Obligations.CommandFrame : Prop :=
  ∀ (i : Instr) (s t : State), exec i s = .next t →
    (∀ r : Reg, r ≠ .status → readReg t r = readReg s r) ∧
    t.endph = s.endph ∧ t.par = s.par ∧ t.resetHeld = s.resetHeld ∧ t.inbox = s.inbox ∧
    t.hostReads = s.hostReads ∧ t.ticks = s.ticks ∧
    (i ≠ .read → t.bitcnt = s.bitcnt ∧ t.shreg = s.shreg ∧ t.lineOe = s.lineOe ∧ t.lineOut = s.lineOut) ∧
    ((∀ level timeout, i ≠ .measure level timeout) → t.mlevel = s.mlevel ∧ t.mto = s.mto) ∧
    (i = .nop ∨ s.phase ≠ .idle →
      t.phase = s.phase ∧ t.cnt = s.cnt ∧ t.bitcnt = s.bitcnt ∧ t.shreg = s.shreg ∧ t.mlevel = s.mlevel ∧
      t.mto = s.mto ∧ t.lineOe = s.lineOe ∧ t.lineOut = s.lineOut ∧ t.done = s.done ∧ t.result = s.result)

/-! ## The register window (spec/20_memory.md, spec/10_state.md section 4) -/

/-- R33: what a host read of each of the eight registers returns, and that it changes nothing but what the host has
read (the returned word is the head of `hostReads`, the model's form, log entry 5). The premise on the codes is an
invariant (`Obligations.EveryStepKeepsTheInvariant`): STATUS with a code that is never produced is a fault
(93_implementation_defined.md I11). -/
def Obligations.RegisterReadsReturnTheirValues : Prop :=
  ∀ s : State, s.par.base % 32 = 0 → s.resetHeld = false → statusFault s = none →
    ∀ entry ∈ ([
      (0x00, 0),
      (0x04, s.bitcnt.zeroExtend 32 <<< 16 ||| s.endph.code.zeroExtend 32 <<< 12 ||| s.phase.code.zeroExtend 32 <<< 8
        ||| (if s.cmderr then 1#32 else 0#32) <<< 4 ||| s.result.code.zeroExtend 32 <<< 2
        ||| (if s.done then 1#32 else 0#32) <<< 1 ||| (if s.phase ≠ .idle then 1#32 else 0#32)),
      (0x08, s.frame0),
      (0x0C, s.frame1),
      (0x10, s.hum),
      (0x14, s.temp),
      (0x18, s.hold),
      (0x1C, 0)] : List (Nat × Word)),
    perform (.read (s.par.base + entry.1) .word) s = .next { s with hostReads := entry.2 :: s.hostReads }

/-- The field table of STATUS (10_state.md section 4), bit by bit of the word a host reads. -/
def Obligations.StatusFieldsStandWhereTheTableSays : Prop :=
  ∀ s : State,
    ((statusWord s).getLsbD 0 = true ↔ s.phase ≠ .idle) ∧
    (statusWord s).getLsbD 1 = s.done ∧
    (statusWord s).extractLsb' 2 2 = s.result.code ∧
    (statusWord s).getLsbD 4 = s.cmderr ∧
    (statusWord s).extractLsb' 5 3 = 0 ∧
    (statusWord s).extractLsb' 8 4 = s.phase.code ∧
    (statusWord s).extractLsb' 12 4 = s.endph.code ∧
    (statusWord s).extractLsb' 16 6 = s.bitcnt ∧
    (statusWord s).extractLsb' 22 10 = 0

/-- R34: a read changes no state of the SWPD (in particular not DONE, RESULT or CMDERR), and a read of one register
repeated after any number of reads returns the same value. -/
def Obligations.ReadsAreIdempotent : Prop :=
  ∀ (a : Nat) (w : AccessWidth) (s t : State), perform (.read a w) s = .next t →
    ∃ v, t = { s with hostReads := v :: s.hostReads } ∧
      ∀ (between : List (Nat × AccessWidth)) (u : State),
        performAll (between.map fun x => .read x.1 x.2) t = .next u →
          perform (.read a w) u = .next { u with hostReads := v :: u.hostReads } ∧
          u = { s with hostReads := u.hostReads }

/-- R35: a write of CMD is a command write, a write of any other register changes nothing (and so does not set CMDERR),
and writing READ twice is not idempotent: the second is rejected and sets CMDERR. -/
def Obligations.OnlyCommandWritesHaveAnEffect : Prop :=
  ∀ s : State, s.par.base % 32 = 0 → s.resetHeld = false →
    (∀ v : Word, perform (.write (s.par.base + 0x00) .word v) s = commandWrite v s) ∧
    (∀ off ∈ [0x04, 0x08, 0x0C, 0x10, 0x14, 0x18, 0x1C], ∀ v : Word,
      perform (.write (s.par.base + off) .word v) s = .next s) ∧
    (s.phase = .idle → ∃ t,
      perform (.write (s.par.base + 0x00) .word 0x00000001) s = .next t ∧ t.cmderr = false ∧
      perform (.write (s.par.base + 0x00) .word 0x00000001) t = .next { t with cmderr := true })

/-- The model refuses an access exactly when it is not an aligned 32-bit access at BASE to BASE + 0x1C (20_memory.md
section 1: "A model refuses such an access"), reads and writes alike. That an access outside the window is refused too is
the model's choice (log entry 10). -/
def Obligations.UndefinedAccessesAreRefused : Prop :=
  ∀ (a : Nat) (w : AccessWidth) (s : State), s.par.base % 32 = 0 →
    ((∃ r, perform (.read a w) s = .refused r) ↔ ¬ definedAccess s.par.base a w) ∧
    (∀ v : Word, (∃ r, perform (.write a w v) s = .refused r) ↔ ¬ definedAccess s.par.base a w)

/-- R25: offset 0x1C reads 0 and a write of it is ignored; so for every reserved bit of every register: those of CMD
(which reads 0, R24), STATUS 7:5 and 31:22, FRAME1 31:8, HUM 31:16 and HOLD 31:16 read 0, and writes of the registers
that are not CMD change nothing (what a write of CMD with its reserved bits set does is R50's). -/
def Obligations.ReservedBitsReadZero : Prop :=
  ∀ s : State, Inv s →
    readReg s .reserved = 0 ∧ readReg s .cmd = 0 ∧
    (readReg s .status).extractLsb' 5 3 = 0 ∧ (readReg s .status).extractLsb' 22 10 = 0 ∧
    (readReg s .frame1).extractLsb' 8 24 = 0 ∧ (readReg s .hum).extractLsb' 16 16 = 0 ∧
    (readReg s .hold).extractLsb' 16 16 = 0 ∧
    (∀ off ∈ [0x04, 0x08, 0x0C, 0x10, 0x14, 0x18, 0x1C], ∀ v : Word,
      perform (.write (s.par.base + off) .word v) s = .next s)

/-- A command write is visible to the next read (20_memory.md section 3): after READ is accepted STATUS reads BUSY = 1,
PHASE = 1, DONE, RESULT, CMDERR and BITCNT 0, and ENDPH as before; and with R5's constraints it reads the same after a
tick. The sentence is one the spec marks as its own inference (R37, "[derived: from 41_frame_decoder.md rule R70]"). -/
def Obligations.StatusShowsTheAcceptedRead : Prop :=
  ∀ s t : State, s.par.InRange → s.phase = .idle → exec .read s = .next t →
    statusWord t = 0x00000101 ||| s.endph.code.zeroExtend 32 <<< 12 ∧
    ∀ l : LineLevel, ∃ u, tick l t = .next u ∧ statusWord u = statusWord t

/-! ## The sequencer and the hold measurement (spec/40_signal_timer.md) -/

/-- R64: the tick by phase; `Sample()` is used only in a hold phase, so in IDLE, WAKE and REQ the sample does not
matter. -/
def Obligations.TickDispatchesOnThePhase : Prop :=
  ∀ (l : LineLevel) (s : State),
    (s.phase = .idle → tick l s = .next s) ∧
    (s.phase = .wake → tick l s = .next (wakeTick s)) ∧
    (s.phase = .req → tick l s = .next (reqTick s)) ∧
    (s.phase ∈ [Phase.presL, .presH, .bitL, .bitH, .meas] → tick l s = .next (holdStep l s)) ∧
    (s.phase ∈ [Phase.idle, .wake, .req] → ∀ l' : LineLevel, tick l' s = tick l s)

/-- The frame of a tick, for what READ and MEASURE do after their acceptance: a tick changes neither CMDERR nor the
latched level and timeout nor the parameters nor the agents' data; only a tick in BIT_H writes `bitcnt`, `shreg` or a
frame's registers, only one in MEAS writes HOLD; and DONE, RESULT, ENDPH and the result registers change only in a tick
that leaves the block in IDLE, the line driver only there or in WAKE and REQ (10_state.md sections 3 to 5). -/
def Obligations.TickFrame : Prop :=
  ∀ (l : LineLevel) (s t : State), tick l s = .next t →
    t.cmderr = s.cmderr ∧ t.mlevel = s.mlevel ∧ t.mto = s.mto ∧ t.par = s.par ∧ t.resetHeld = s.resetHeld ∧
    t.inbox = s.inbox ∧ t.hostReads = s.hostReads ∧ t.ticks = s.ticks ∧
    (s.phase ≠ .bitH → t.bitcnt = s.bitcnt ∧ t.shreg = s.shreg ∧ t.frame0 = s.frame0 ∧ t.frame1 = s.frame1 ∧
      t.hum = s.hum ∧ t.temp = s.temp) ∧
    (s.phase ≠ .meas → t.hold = s.hold) ∧
    (t.phase ≠ .idle → t.done = s.done ∧ t.result = s.result ∧ t.endph = s.endph ∧ t.frame0 = s.frame0 ∧
      t.frame1 = s.frame1 ∧ t.hum = s.hum ∧ t.temp = s.temp ∧ t.hold = s.hold) ∧
    (t.phase ≠ .idle → s.phase ≠ .wake → s.phase ≠ .req → t.lineOe = s.lineOe ∧ t.lineOut = s.lineOut)

/-- R60: the table of expected levels and timeouts, and one step of `HoldStep`, the count compared without wrapping. -/
def Obligations.HoldStepFollowsItsPseudocode : Prop :=
  ∀ s : State,
    (s.phase = .presL → holdParams s = some (.low, s.par.toPresL)) ∧
    (s.phase = .presH → holdParams s = some (.high, s.par.toPresH)) ∧
    (s.phase = .bitL → holdParams s = some (.low, s.par.toBitL)) ∧
    (s.phase = .bitH → holdParams s = some (.high, s.par.toBitH)) ∧
    (s.phase = .meas → holdParams s = some (s.mlevel, s.mto)) ∧
    (∀ (l level : LineLevel) (timeout : TickCount), holdParams s = some (level, timeout) →
      tick l s = .next (
        if l = level then
          if s.cnt.toNat + 1 > timeout.toNat then { s with
            result := .timeout, done := true, endph := s.phase, phase := .idle, cnt := 0, lineOe := false,
            lineOut := .low }
          else { s with cnt := s.cnt + 1 }
        else endHold s.cnt s))

/-- A hold's whole course from any count it can have (40_signal_timer.md section 2; the sentences of R60 that the spec
marks as its own inference, "[derived: from this rule]"): `n` more samples at the expected level are counted while the
count stays within the timeout, the sample that would exceed it ends the operation with TIMEOUT, and a sample off the
level ends the hold with the count. In MEAS the TIMEOUT is R66's: RESULT = 1, ENDPH = 7, HOLD not written. -/
def Obligations.HoldsAreCountedUpToTheirTimeout : Prop :=
  ∀ (s : State) (level : LineLevel) (timeout : TickCount), holdParams s = some (level, timeout) →
    s.cnt.toNat ≤ timeout.toNat →
    (∀ n : Nat, s.cnt.toNat + n ≤ timeout.toNat →
      runTicks (List.replicate n level) s = .next { s with cnt := BitVec.ofNat 16 (s.cnt.toNat + n) }) ∧
    (∀ (n : Nat) (other : LineLevel), s.cnt.toNat + n ≤ timeout.toNat → other ≠ level →
      runTicks (List.replicate n level ++ [other]) s =
        .next (endHold (BitVec.ofNat 16 (s.cnt.toNat + n))
          { s with cnt := BitVec.ofNat 16 (s.cnt.toNat + n) })) ∧
    runTicks (List.replicate (timeout.toNat - s.cnt.toNat + 1) level) s =
      .next { s with
        result := .timeout, done := true, endph := s.phase, phase := .idle, cnt := 0, lineOe := false,
        lineOut := .low }

/-- R61: the sample that ends a hold is the first sample of the next one: the model's step is R61's recursion, with
`HoldStep` called again on the same sample (the model writes it without the call, log entry 12). -/
def Obligations.HoldStepMeetsTheRecursion : Prop :=
  ∀ (l : LineLevel) (s : State) (level : LineLevel) (timeout : TickCount),
    holdParams s = some (level, timeout) → l ≠ level →
    (s.phase = .presL → holdStep l s = holdStep l { s with phase := .presH, cnt := 0 }) ∧
    (s.phase = .presH → holdStep l s = holdStep l { s with phase := .bitL, cnt := 0 }) ∧
    (s.phase = .bitL → holdStep l s = holdStep l { s with phase := .bitH, cnt := 0 }) ∧
    (s.phase = .bitH → (takeBit s.cnt s).bitcnt ≠ 40 →
      holdStep l s = holdStep l { takeBit s.cnt s with phase := .bitL, cnt := 0 }) ∧
    (s.phase = .bitH → (takeBit s.cnt s).bitcnt = 40 → holdStep l s = complete (takeBit s.cnt s)) ∧
    (s.phase = .meas → holdStep l s = measureEnd s.cnt s)

/-- With every timeout parameter at least 1, the sample that ends a READ's hold starts the next hold with count 1 and
never times out there (40_signal_timer.md section 2; the sentence of R61 that the spec marks as its own inference,
"[derived: from rule R60 and 00_scope.md rule R5]"; `nextHold` is log entry 12). -/
def Obligations.NextHoldsStartWithCountOne : Prop :=
  ∀ (l : LineLevel) (s : State) (level : LineLevel) (timeout : TickCount), s.par.InRange →
    holdParams s = some (level, timeout) → l ≠ level →
    (s.phase = .presL → tick l s = .next { s with phase := .presH, cnt := 1 }) ∧
    (s.phase = .presH → tick l s = .next { s with phase := .bitL, cnt := 1 }) ∧
    (s.phase = .bitL → tick l s = .next { s with phase := .bitH, cnt := 1 }) ∧
    (s.phase = .bitH → (takeBit s.cnt s).bitcnt ≠ 40 →
      tick l s = .next { takeBit s.cnt s with phase := .bitL, cnt := 1 })

/-- R65: a sample off the expected level ends a MEASURE: HOLD takes the count and the operation ends with result OK;
everything else keeps its value. -/
def Obligations.MeasureEndsWithItsCount : Prop :=
  ∀ (l : LineLevel) (s : State), s.phase = .meas → l ≠ s.mlevel →
    tick l s = .next { s with
      hold := BitVec.ofNat 32 s.cnt.toNat, result := .ok, done := true, endph := .meas, phase := .idle, cnt := 0,
      lineOe := false, lineOut := .low }

/-- The timing of MEASURE (40_signal_timer.md section 4, the table R68, which the spec marks as its own inference,
"[derived: from rules R60, R63, R64]"): a MEASURE accepted in IDLE whose line is at `level` for `n ≤ timeout` ticks
and then is not ends at tick `n + 1` with OK and HOLD = `n`; one whose line stays at `level` ends at tick `timeout +
1` with TIMEOUT, ENDPH = 7 and HOLD unchanged; before that it is busy, and whatever the line does it is not busy after
tick `timeout + 1`. -/
def Obligations.MeasureTiming : Prop :=
  ∀ (level other : LineLevel) (timeout : TickCount) (s t : State), s.phase = .idle → s.lineOe = false →
    s.lineOut = .low → other ≠ level → exec (.measure level timeout) s = .next t →
    (∀ n : Nat, n ≤ timeout.toNat →
      (∃ u, runTicks (List.replicate n level) t = .next u ∧ u.phase = .meas) ∧
      runTicks (List.replicate n level ++ [other]) t =
        .next { t with hold := BitVec.ofNat 32 n, done := true, endph := .meas, phase := .idle }) ∧
    runTicks (List.replicate (timeout.toNat + 1) level) t =
      .next { t with result := .timeout, done := true, endph := .meas, phase := .idle } ∧
    (∀ ls : List LineLevel, timeout.toNat + 1 ≤ ls.length →
      ∃ u, runTicks ls t = .next u ∧ u.phase = .idle ∧ u.done = true)

/-- MEASURE has no side effects beyond reading the pin (R67, which the spec marks as its own inference, "[derived: from
rule R63 and 10_state.md rule R17 ...]"): from its acceptance on, as long as no command is written, the SWPD does not
drive the line and the READ's state and registers keep their values. -/
def Obligations.MeasureDoesNotDriveTheLine : Prop :=
  ∀ (level : LineLevel) (timeout : TickCount) (s t u : State) (ls : List LineLevel), Inv s → s.phase = .idle →
    exec (.measure level timeout) s = .next t → runTicks ls t = .next u →
    lineDrive u = none ∧ u.bitcnt = s.bitcnt ∧ u.shreg = s.shreg ∧ u.frame0 = s.frame0 ∧ u.frame1 = s.frame1 ∧
      u.hum = s.hum ∧ u.temp = s.temp

/-- The result of a MEASURE is a function of the line (40_signal_timer.md section 4): after the same samples, two
machines that were idle in any states have the same DONE, RESULT and phase, and where the MEASURE ended OK the same
HOLD. -/
def Obligations.MeasureDependsOnTheLineAlone : Prop :=
  ∀ (level : LineLevel) (timeout : TickCount) (s₁ s₂ t₁ t₂ u₁ u₂ : State) (ls : List LineLevel),
    s₁.phase = .idle → s₂.phase = .idle →
    exec (.measure level timeout) s₁ = .next t₁ → exec (.measure level timeout) s₂ = .next t₂ →
    runTicks ls t₁ = .next u₁ → runTicks ls t₂ = .next u₂ →
    u₁.phase = u₂.phase ∧ u₁.done = u₂.done ∧ u₁.result = u₂.result ∧
      (u₁.done = true → u₁.result = .ok → u₁.hold = u₂.hold)

/-- The counter (10_state.md section 3, R13, whose last two sentences the spec marks as its own inferences, "[derived:
from 40_signal_timer.md rule R60 ...]"): `cnt` is 0 in IDLE, within a hold it never exceeds the hold's timeout, and in
every phase but IDLE a tick that stays in the phase adds exactly one to it, with no wrap. -/
def Obligations.CounterIsMonotonicAndNeverWraps : Prop :=
  ∀ (l : LineLevel) (s t : State), Inv s → tick l s = .next t →
    (t.phase = .idle → t.cnt = 0) ∧
    (∀ level timeout, holdParams t = some (level, timeout) → t.cnt.toNat ≤ timeout.toNat) ∧
    (s.phase ≠ .idle → t.phase = s.phase → t.cnt.toNat = s.cnt.toNat + 1)

/-! ## The frame decoder (spec/41_frame_decoder.md) -/

/-- R71: in WAKE the line is driven low, and T_WAKE is at least 3000; a tick there is `WakeTick`: it counts, and at T_WAKE
ticks the line is driven high and REQ begins. -/
def Obligations.WakeTickFollowsItsPseudocode : Prop :=
  ∀ (l : LineLevel) (s : State), s.phase = .wake →
    (Inv s → lineDrive s = some .low ∧ 3000 ≤ s.par.tWake.toNat) ∧
    tick l s = .next (if s.cnt + 1 = s.par.tWake then { s with cnt := 0, lineOut := .high, phase := .req }
      else { s with cnt := s.cnt + 1 })

/-- From READ's acceptance the line is driven low for T_WAKE ticks, at least 3000, whatever the samples, and driven high
from tick T_WAKE (41_frame_decoder.md section 2; the sentence of R71 that the spec marks as its own inference, "[derived:
from this rule and rule R70]"). -/
def Obligations.WakeDrivesTheLineLow : Prop :=
  ∀ (s t : State) (ls : List LineLevel), s.par.InRange → s.phase = .idle → exec .read s = .next t →
    (ls.length < s.par.tWake.toNat →
      ∃ u, runTicks ls t = .next u ∧ u.phase = .wake ∧ lineDrive u = some .low ∧ u.cnt.toNat = ls.length) ∧
    (ls.length = s.par.tWake.toNat →
      3000 ≤ ls.length ∧
      ∃ u, runTicks ls t = .next u ∧ u.phase = .req ∧ lineDrive u = some .high ∧ u.cnt = 0)

/-- R72: in REQ the line is driven high; a tick there is `ReqTick`: it counts, and at T_REQ ticks the line is released and
the presence low hold begins. -/
def Obligations.ReqTickFollowsItsPseudocode : Prop :=
  ∀ (l : LineLevel) (s : State), s.phase = .req →
    (Inv s → lineDrive s = some .high) ∧
    tick l s = .next (if s.cnt + 1 = s.par.tReq
      then { s with cnt := 0, lineOe := false, lineOut := .low, phase := .presL }
      else { s with cnt := s.cnt + 1 })

/-- The line is driven high from tick T_WAKE and released at tick T_WAKE + T_REQ, whatever the samples, and the first
sample of the presence low hold is the next tick's, S0, 3026 with the defaults (41_frame_decoder.md section 2; the
sentence of R72 that the spec marks as its own inference, "[derived: from rules R70, R71, this rule ...]"). -/
def Obligations.RequestIsHighAndThenReleased : Prop :=
  firstSampleTick Params.default = 3026 ∧
  ∀ (s t : State) (ls : List LineLevel), s.par.InRange → s.phase = .idle → exec .read s = .next t →
    (s.par.tWake.toNat ≤ ls.length → ls.length < s.par.tWake.toNat + s.par.tReq.toNat →
      ∃ u, runTicks ls t = .next u ∧ u.phase = .req ∧ lineDrive u = some .high) ∧
    (ls.length + 1 = firstSampleTick s.par →
      ∃ u, runTicks ls t = .next u ∧ u = { t with phase := .presL, lineOe := false } ∧ lineDrive u = none ∧
        tick .low u = .next { u with cnt := 1 } ∧
        tick .high u = .next { u with phase := .presH, cnt := 1 })

/-- R76: a tick in BIT_H. A high sample is counted up to TO_BIT_H and then ends the READ with TIMEOUT; a low one decodes
the bit, 1 exactly when the count is more than THRESH, shifts it in at bit 0 and counts it; the 40th completes the
frame and its ending sample is used for nothing else, any other starts the next low hold with count 1. -/
def Obligations.BitHighHoldsDecodeByTheThreshold : Prop :=
  ∀ s : State, s.par.InRange → s.phase = .bitH →
    (s.cnt.toNat < s.par.toBitH.toNat → tick .high s = .next { s with cnt := s.cnt + 1 }) ∧
    (s.cnt.toNat = s.par.toBitH.toNat → tick .high s = .next { s with
      result := .timeout, done := true, endph := .bitH, phase := .idle, cnt := 0, lineOe := false,
      lineOut := .low }) ∧
    ∀ (b : Nat) (f : BitVec 40), b = (if s.par.thresh.toNat < s.cnt.toNat then 1 else 0) →
      f.toNat = (2 * s.shreg.toNat + b) % 2 ^ 40 →
      (s.bitcnt.toNat ≠ 39 → tick .low s = .next { s with
        shreg := f, bitcnt := s.bitcnt + 1, phase := .bitL, cnt := 1 }) ∧
      (s.bitcnt.toNat = 39 → tick .low s = .next (complete { s with shreg := f, bitcnt := 40 }))

/-- What THRESH < TO_BIT_H is for (00_scope.md section 4; the sentence of R5 that the spec marks as its own inference,
"[derived: from 41_frame_decoder.md rule R76 and 40_signal_timer.md rule R60]"; 93_implementation_defined.md I15): some
count that a BIT_H hold can end with decodes to 1 exactly when the threshold is below the timeout, and with the
threshold at or above it every bit decoded is a 0. -/
def Obligations.OnesNeedTheThresholdBelowTheTimeout : Prop :=
  (∀ p : Params, p.thresh.toNat < p.toBitH.toNat ↔
    ∃ n : TickCount, 1 ≤ n.toNat ∧ n.toNat ≤ p.toBitH.toNat ∧ bitOfCount p n = true) ∧
  ∀ s t : State, s.phase = .bitH → s.par.toBitH.toNat ≤ s.par.thresh.toNat → s.cnt.toNat ≤ s.par.toBitH.toNat →
    tick .low s = .next t → t.shreg = shiftIn s.shreg false

/-- The frame's bit and byte order (20_memory.md section 5; R42, which the spec marks as its own inference, "[derived:
from rule R41 and 41_frame_decoder.md rule R77]"): after 40 bits have been shifted into an empty `shreg`, the k-th
decoded bit is bit 7 − (k mod 8) of frame byte floor(k / 8), byte K is `shreg[39 − 8K : 32 − 8K]`, and so FRAME0 is
`shreg[39:8]` and FRAME1[7:0] is `shreg[7:0]`. -/
def Obligations.BitsArePackedMostSignificantFirst : Prop :=
  ∀ bits : List Bool, bits.length = 40 →
    let f := bits.foldl shiftIn 0
    let bytes := [frameByte0 f, frameByte1 f, frameByte2 f, frameByte3 f, frameByte4 f]
    (∀ k, k < 40 → ∃ b y, bits[k]? = some b ∧ bytes[k / 8]? = some y ∧ y.getLsbD (7 - k % 8) = b) ∧
    (∀ k, k < 5 → ∃ y, bytes[k]? = some y ∧ y = f.extractLsb' (32 - 8 * k) 8) ∧
    (∀ s : State, s.shreg = f →
      (commit s).frame0 = f.extractLsb' 8 32 ∧ (commit s).frame1.extractLsb' 0 8 = f.extractLsb' 0 8)

/-- R78, R80 and R92: in the tick that decodes the 40th bit, byte 4 is compared with the low 8 bits of the sum of the
four unsigned bytes. On a match the frame is published (the values of R79, R82, R83) and the READ ends OK with
ENDPH = 6; on a mismatch it ends with CHECKSUM_ERROR, ENDPH = 6 and BITCNT = 40, and FRAME0, FRAME1, HUM and TEMP are
not written. -/
def Obligations.ChecksumDecidesTheFrame : Prop :=
  ∀ s : State, s.phase = .bitH → s.bitcnt = 39 →
    let f := shiftIn s.shreg (decide (s.par.thresh.toNat < s.cnt.toNat))
    let b0 := (f.extractLsb' 32 8).toNat
    let b1 := (f.extractLsb' 24 8).toNat
    let b2 := (f.extractLsb' 16 8).toNat
    let b3 := (f.extractLsb' 8 8).toNat
    let b4 := (f.extractLsb' 0 8).toNat
    (b4 = (b0 + b1 + b2 + b3) % 256 → tick .low s = .next { s with
      shreg := f, bitcnt := 40,
      frame0 := BitVec.ofNat 32 (((b0 * 256 + b1) * 256 + b2) * 256 + b3),
      frame1 := BitVec.ofNat 32 b4,
      hum := BitVec.ofNat 32 (b0 * 256 + b1),
      temp := BitVec.ofInt 32 (if 128 ≤ b2 then -((b2 % 128 * 256 + b3 : Nat) : Int) else (b2 * 256 + b3 : Nat)),
      result := .ok, done := true, endph := .bitH, phase := .idle, cnt := 0, lineOe := false, lineOut := .low }) ∧
    (b4 ≠ (b0 + b1 + b2 + b3) % 256 → tick .low s = .next { s with
      shreg := f, bitcnt := 40,
      result := .checksumError, done := true, endph := .bitH, phase := .idle, cnt := 0, lineOe := false,
      lineOut := .low })

/-- R82 and R83: for every frame that is committed, HUM is `b0 × 256 + b1`, at most 65535; TEMP read as signed is
`±((b2 & 0x7F) × 256 + b3)`, negative exactly when bit 7 of byte 2 is set, −32767 to 32767; a negative zero gives TEMP 0
and keeps its sign in FRAME0 bit 15. No range check is made: this holds for all bytes. -/
def Obligations.ConversionsAreExact : Prop :=
  ∀ (s : State) (b0 b1 b2 b3 b4 : Byte), s.shreg = b0 ++ b1 ++ b2 ++ b3 ++ b4 →
    (commit s).hum.toNat = b0.toNat * 256 + b1.toNat ∧ (commit s).hum.toNat ≤ 65535 ∧
    (commit s).temp.toInt =
      (if b2.getLsbD 7 then -((b2.toNat % 128 * 256 + b3.toNat : Nat) : Int)
        else (b2.toNat % 128 * 256 + b3.toNat : Nat)) ∧
    -32767 ≤ (commit s).temp.toInt ∧ (commit s).temp.toInt ≤ 32767 ∧
    (b2 = 0x80 → b3 = 0x00 → (commit s).temp = 0 ∧ (commit s).frame0.getLsbD 15 = true)

/-- R79 and R95: the only writes of FRAME0, FRAME1, HUM and TEMP by a step other than a reset are the commit of a frame
that passed its checksum, and the only write of HOLD the end of a MEASURE with OK; every other step, those that end in
TIMEOUT or CHECKSUM_ERROR among them, keeps all five. -/
def Obligations.ResultRegistersAreWrittenOnlyOnSuccess : Prop :=
  ∀ s t : State, s.par.InRange → step s = .next t →
    nextEvent s ≠ .reset → nextEvent s ≠ .assertReset →
    (((t.frame0, t.frame1, t.hum, t.temp) = (s.frame0, s.frame1, s.hum, s.temp) ∨
      (s.phase = .bitH ∧ s.bitcnt = 39 ∧ frameOk t.shreg = true ∧ t.done = true ∧ t.result = .ok ∧
        t.endph = .bitH ∧ t.bitcnt = 40 ∧
        t.frame0 = t.shreg.extractLsb' 8 32 ∧ t.frame1 = (t.shreg.extractLsb' 0 8).zeroExtend 32 ∧
        t.hum = (t.shreg.extractLsb' 24 16).zeroExtend 32 ∧
        t.temp = temperatureWord (t.shreg.extractLsb' 16 8) (t.shreg.extractLsb' 8 8))) ∧
     (t.hold = s.hold ∨
      (s.phase = .meas ∧ t.done = true ∧ t.result = .ok ∧ t.endph = .meas ∧
        t.hold = s.cnt.zeroExtend 32)))

/-- Every good frame is delivered (41_frame_decoder.md section 7; R88, which the spec marks as its own inference,
"[derived: from rules R76 to R79]"): a READ accepted in IDLE whose line carries a frame with a right checksum, within
the timeouts, ends with OK and publishes the frame, with HUM and TEMP by R82 and R83 exactly, in the tick of the
sample that ends the 40th bit's high hold (R87) and not before; the line during WAKE and REQ is arbitrary. -/
def Obligations.GoodFramesAreDelivered : Prop :=
  ∀ (s t : State) (pulse : List LineLevel) (presLow presHigh : Nat) (bits : List BitHold) (f : BitVec 40),
    s.par.InRange → s.phase = .idle → exec .read s = .next t →
    pulse.length = s.par.tWake.toNat + s.par.tReq.toNat → AnswerCarries s.par presLow presHigh bits f →
    (frameByte4 f).toNat =
      ((frameByte0 f).toNat + (frameByte1 f).toNat + (frameByte2 f).toNat + (frameByte3 f).toNat) % 256 →
    runTicks (pulse ++ answerSamples presLow presHigh bits) t = .next { t with
      shreg := f, bitcnt := 40, lineOe := false, phase := .idle, done := true, endph := .bitH,
      frame0 := f.extractLsb' 8 32,
      frame1 := (f.extractLsb' 0 8).zeroExtend 32,
      hum := BitVec.ofNat 32 ((frameByte0 f).toNat * 256 + (frameByte1 f).toNat),
      temp := BitVec.ofInt 32 (
        if (frameByte2 f).getLsbD 7 then -(((frameByte2 f).toNat % 128 * 256 + (frameByte3 f).toNat : Nat) : Int)
        else ((frameByte2 f).toNat % 128 * 256 + (frameByte3 f).toNat : Nat)) } ∧
    ∃ u, runTicks ((pulse ++ answerSamples presLow presHigh bits).dropLast) t = .next u ∧ u.phase = .bitH

/-- One wrong bit in byte 4 is caught (41_frame_decoder.md section 7; R89, which the spec marks as its own inference,
"[derived: from rules R78, R80]"): for a frame whose bytes pass the checksum, the same READ of the frame with exactly
one bit of byte 4 changed ends with CHECKSUM_ERROR and leaves the result registers unchanged. -/
def Obligations.OneFlippedChecksumBitIsCaught : Prop :=
  ∀ (s t : State) (pulse : List LineLevel) (presLow presHigh : Nat) (bits : List BitHold) (f : BitVec 40) (k : Nat),
    s.par.InRange → s.phase = .idle → exec .read s = .next t →
    pulse.length = s.par.tWake.toNat + s.par.tReq.toNat → frameOk f = true → k < 8 →
    AnswerCarries s.par presLow presHigh bits (f ^^^ BitVec.ofNat 40 (2 ^ k)) →
    ∃ u, runTicks (pulse ++ answerSamples presLow presHigh bits) t = .next u ∧
      u.phase = .idle ∧ u.done = true ∧ u.result = .checksumError ∧ u.endph = .bitH ∧ u.bitcnt = 40 ∧
      u.frame0 = s.frame0 ∧ u.frame1 = s.frame1 ∧ u.hum = s.hum ∧ u.temp = s.temp ∧ u.hold = s.hold

/-- The bounds on a READ (70_reset_and_hazards.md section 4, R122, which the spec marks as its own inference),
whatever the line does: it has ended, with a result, by tick `longestRead` (8436 with the defaults); it ends with
TIMEOUT no earlier than `earliestReadTimeout` (3083), and with OK or CHECKSUM_ERROR no earlier than S0 + 1 + 80
(3107). -/
def Obligations.EveryReadEndsWithinItsBounds : Prop :=
  longestRead Params.default = 8436 ∧ earliestReadTimeout Params.default = 3083 ∧
  firstSampleTick Params.default + 1 + 80 = 3107 ∧
  ∀ (s t u : State) (ls : List LineLevel), s.par.InRange → s.phase = .idle → exec .read s = .next t →
    runTicks ls t = .next u →
    (longestRead s.par ≤ ls.length → u.phase = .idle ∧ u.done = true) ∧
    (u.phase = .idle → u.result = .timeout → earliestReadTimeout s.par ≤ ls.length) ∧
    (u.phase = .idle → u.result ≠ .timeout → firstSampleTick s.par + 1 + 80 ≤ ls.length)

/-- The host-side floats (41_frame_decoder.md section 6): for every 16-bit count of tenths `n` other than 0, the bits
of `roundTenths n` are a normal binary32 number `sig · 2^(e − 150)`, `2^23 ≤ sig < 2^24`, no further than half a unit
in the last place from `n / 10`; 0 gives 0.0; and the temperature takes its sign from FRAME0 bit 15 after the
division. -/
def Obligations.HostFloatsAreCorrectlyRounded : Prop :=
  (∀ n : BitVec 16, n ≠ 0 → ∃ e sig : Nat,
    roundTenths n = BitVec.ofNat 32 (e * 2 ^ 23 + (sig - 2 ^ 23)) ∧ 1 ≤ e ∧ e ≤ 150 ∧ 2 ^ 23 ≤ sig ∧ sig < 2 ^ 24 ∧
    2 * (10 * sig) ≤ 2 * (n.toNat * 2 ^ (150 - e)) + 10 ∧ 2 * (n.toNat * 2 ^ (150 - e)) ≤ 2 * (10 * sig) + 10) ∧
  roundTenths 0 = 0 ∧
  (∀ hum : Word, humidityFloat hum = roundTenths (hum.extractLsb' 0 16)) ∧
  (∀ frame0 : Word,
    (temperatureFloat frame0).getLsbD 31 = frame0.getLsbD 15 ∧
    (temperatureFloat frame0).extractLsb' 0 31 =
      (roundTenths ((frame0.extractLsb' 0 15).zeroExtend 16)).extractLsb' 0 31)

/-! ## Ends, flags, reset, invariants (spec/60_exceptions.md, spec/70_reset_and_hazards.md, spec/10_state.md) -/

/-- R94: every tick in which an operation ends leaves DONE = 1, a result that is OK, TIMEOUT or CHECKSUM_ERROR,
ENDPH = the phase it ended in, IDLE with `cnt` 0 and the line released, BUSY = 0; and a READ or MEASURE is accepted
again. -/
def Obligations.EveryEndLeavesTheIdleState : Prop :=
  ∀ (l : LineLevel) (s t : State), s.par.InRange → s.phase ≠ .idle → tick l s = .next t → t.phase = .idle →
    t.done = true ∧ (t.result = .ok ∨ t.result = .timeout ∨ t.result = .checksumError) ∧ t.endph = s.phase ∧
    t.cnt = 0 ∧ t.lineOe = false ∧ t.lineOut = .low ∧ (statusWord t).getLsbD 0 = false ∧
    (∃ u, exec .read t = .next u ∧ u.phase = .wake) ∧
    (∀ level timeout, ∃ u, exec (.measure level timeout) t = .next u ∧ u.phase = .meas)

/-- R81 and R91: a tick ends an operation with TIMEOUT exactly when it measures a hold (so never in WAKE or REQ), the
sample is at the expected level and the count is already the timeout; then RESULT, DONE, ENDPH, the idle state and
nothing else is written, ENDPH names the hold, and in a READ fewer than 40 bits have been decoded. -/
def Obligations.TimeoutsAreRaisedByHoldsOnly : Prop :=
  ∀ (l : LineLevel) (s t : State), Inv s → tick l s = .next t →
    ((s.done = false ∧ t.done = true ∧ t.result = .timeout) ↔
      ∃ timeout, holdParams s = some (l, timeout) ∧ s.cnt = timeout) ∧
    (s.done = false ∧ t.done = true ∧ t.result = .timeout →
      t = { s with
        result := .timeout, done := true, endph := s.phase, phase := .idle, cnt := 0, lineOe := false,
        lineOut := .low } ∧
      ((s.phase.isReadHold = true ∧ s.bitcnt.toNat ≤ 39) ∨ s.phase = .meas))

/-- R26: the flags BUSY, DONE, RESULT and CMDERR are written only as the table there says, by every input of the
machine. -/
def Obligations.FlagsAreWrittenOnlyAsListed : Prop :=
  ∀ (e : Event) (s t : State), s.par.InRange → s.resetHeld = false → perform e s = .next t →
    (e = .reset ∨ e = .assertReset → flags t = (false, false, .ok, false)) ∧
    (e = .releaseReset ∨ (∃ a w, e = .read a w) → flags t = flags s) ∧
    (∀ l, e = .tick l →
      if s.busy = true ∧ t.busy = false
      then t.done = true ∧ t.result ≠ .reserved ∧ t.cmderr = s.cmderr
      else flags t = flags s) ∧
    (∀ a w v, e = .write a w v →
      flags t =
        if a ≠ s.par.base then flags s
        else match decode v with
          | .error _ => (s.busy, s.done, s.result, true)
          | .ok .nop => (s.busy, s.done, s.result, false)
          | .ok _ => if s.busy then (s.busy, s.done, s.result, true) else (true, false, .ok, false))

/-- R27: the value of every piece of state after reset, whatever the parameters; STATUS and the five result registers
read 0. -/
def Obligations.ResetValues : Prop :=
  ∀ p : Params,
    let s := State.resetWith p
    s.phase = .idle ∧ s.cnt = 0 ∧ s.bitcnt = 0 ∧ s.shreg = 0 ∧ s.mlevel = .low ∧ s.mto = 0 ∧ s.lineOe = false ∧
    s.lineOut = .low ∧ s.done = false ∧ s.result = .ok ∧ s.cmderr = false ∧ s.endph = .idle ∧
    statusWord s = 0x00000000 ∧
    (∀ r : Reg, readReg s r = 0x00000000) ∧ ∃ q : Params, State.reset = State.resetWith q

/-- R111: a reset at any time, an operation running or not, abandons it: every piece of the SWPD's state is at its reset
value, with no DONE, RESULT 0, the line released at once and the result registers 0, and the first tick after it stays
in IDLE. Nothing is said here of the model's own fields (`resetHeld`, `inbox`, `hostReads`, `ticks`), which are no state
of the SWPD (R29). -/
def Obligations.ResetAbandonsEverything : Prop :=
  ∀ s : State,
    ∃ t, perform .reset s = .next t ∧ t.par = s.par ∧
      t = { State.resetWith s.par with
        resetHeld := t.resetHeld, inbox := t.inbox, hostReads := t.hostReads, ticks := t.ticks } ∧
      t.done = false ∧ t.result = .ok ∧ lineDrive t = none ∧ (∀ r : Reg, readReg t r = 0) ∧
      (∀ l : LineLevel, tick l t = .next t)

/-- While reset is held (70_reset_and_hazards.md section 1) the block is in its reset state, takes no tick, ignores every
write and returns 0 for every read, and its release leaves the reset state. The inputs `assertReset` and `releaseReset`,
that a tick of the time base while reset is held changes nothing, the tick number `ticks` included, and that the inputs,
the read words and the tick number outlive a reset are the model's choice (log entry 6), and so is the list of read
words (log entry 5). -/
def Obligations.HeldResetIgnoresEverything : Prop :=
  ∀ s : State,
    ∃ t, perform .assertReset s = .next t ∧
      t = { State.resetWith s.par with
        inbox := s.inbox, hostReads := s.hostReads, ticks := s.ticks, resetHeld := true } ∧
      (∀ l : LineLevel, perform (.tick l) t = .next t) ∧
      (∀ a w, definedAccess s.par.base a w → s.par.base % 32 = 0 →
        (∀ v : Word, perform (.write a w v) t = .next t) ∧
        perform (.read a w) t = .next { t with hostReads := 0 :: t.hostReads }) ∧
      perform .releaseReset t = .next { t with resetHeld := false }

/-- The invariant holds right after reset, whatever parameters the model accepts (R5's constraints with THRESH <
TO_BIT_H, I15), the defaults among them. -/
def Obligations.TheInvariantHoldsAtReset : Prop :=
  (∀ p : Params, p.Valid → Inv (State.resetWith p)) ∧ Inv State.reset

/-- From every state that meets the invariant, whatever the pending inputs, a step gives a state that meets it: phase
and result codes stay legal, the counters stay in range, the line is driven only in WAKE and REQ, an ended operation's
STATUS says where it ended, and FRAME0 to TEMP always hold one frame that passed its checksum. -/
def Obligations.EveryStepKeepsTheInvariant : Prop :=
  ∀ s t : State, Inv s → step s = .next t → Inv t

/-- No step from a state that meets the invariant faults, and one is refused only if it performs a host access that the
SWPD does not define (outside the window by the model's choice, log entry 10). -/
def Obligations.TheMachineNeverFaults : Prop :=
  ∀ s : State, Inv s →
    (∀ f, step s ≠ .fault f) ∧
    (∀ r, step s = .refused r → ∃ a w, ¬ definedAccess s.par.base a w ∧
      (nextEvent s = .read a w ∨ ∃ v, nextEvent s = .write a w v))

/-- The line driver (10_state.md section 3, R17, whose sentence on the phases the spec marks as its own inference,
"[derived: from 41_frame_decoder.md rules R70, R71, R72]"): after every step, the SWPD drives the line to `line_out`
in WAKE (low) and REQ (high), and in every other phase `line_oe = 0` and `line_out = 0`. -/
def Obligations.LineIsDrivenOnlyInWakeAndRequest : Prop :=
  ∀ s t : State, Inv s → step s = .next t →
    (t.phase = .wake → lineDrive t = some .low ∧ t.lineOe = true ∧ t.lineOut = .low) ∧
    (t.phase = .req → lineDrive t = some .high ∧ t.lineOe = true ∧ t.lineOut = .high) ∧
    (t.phase ≠ .wake → t.phase ≠ .req → lineDrive t = none ∧ t.lineOe = false ∧ t.lineOut = .low)

/-- The host's accesses do not disturb a running operation (60_exceptions.md section 3, 70_reset_and_hazards.md
section 3): while BUSY, an access changes CMDERR and what the host has read and nothing else, and the next tick does
the same after it as without it. -/
def Obligations.HostAccessesDoNotDisturbAnOperation : Prop :=
  ∀ (e : Event) (l : LineLevel) (s s' t : State),
    ((∃ a w, e = .read a w) ∨ ∃ a w v, e = .write a w v) → s.phase ≠ .idle → perform e s = .next s' →
    s' = { s with cmderr := s'.cmderr, hostReads := s'.hostReads } ∧
    (tick l s = .next t →
      tick l s' = .next { t with cmderr := s'.cmderr, hostReads := s'.hostReads })

/-- A frame that is not published leaves no trace in any register (10_state.md section 7): two machines that differ only
in `shreg` show the host the same registers after any tick that does not end in OK. -/
def Obligations.UnpublishedFramesLeaveNoTrace : Prop :=
  ∀ (l : LineLevel) (s t u : State) (x : BitVec 40), tick l s = .next t → tick l { s with shreg := x } = .next u →
    (s.phase ≠ .idle → t.phase = .idle → t.result ≠ .ok ∧ u.result ≠ .ok) →
    ∀ r : Reg, readReg t r = readReg u r

/-! ## The step -/

/-- A step runs the decoded command: with a write of CMD at the front of the inputs (and reset not held), the step is
`exec` of the command the word decodes to, on the state with that input taken, and of a word that is no command the
rejection. That a host write is an input in `inbox` is the model's form (log entry 4). -/
def Obligations.StepRunsTheDecodedCommand : Prop :=
  ∀ (s : State) (v : Word) (rest : List Event), s.par.base % 32 = 0 → s.resetHeld = false →
    s.inbox = .write s.par.base .word v :: rest →
    (∀ i : Instr, decode v = .ok i → i.wellFormed = true ∧ step s = exec i { s with inbox := rest }) ∧
    (∀ e, decode v = .error e → step s = .next { s with inbox := rest, cmderr := true })

/-- The same through `withFetchWord`: the very next step runs the command a 32-bit word stands for, with reset not held
and the other inputs as they were (log entry 7, the model's form). -/
def Obligations.FetchedWordsAreRunNext : Prop :=
  ∀ (s : State) (w : Nat) (i : Instr), s.par.base % 32 = 0 → w < 2 ^ 32 → decodeTableWord 32 w = some i →
    step (s.withFetchWord 32 w) = exec i { s with resetHeld := false }

/-- With no input pending a step is one tick, with the line environment's free choice as the sample (the model's form,
log entries 3 and 4): it holds whatever that choice is. -/
def Obligations.IdleTimePassesByTicks : Prop :=
  ∀ s : State, s.inbox = [] → s.resetHeld = false → s.phase.isReserved = false →
    ∃ l t, tick l { s with ticks := s.ticks + 1 } = .next t ∧ step s = .next t
end

