-- ==== Sys2Proof/Laws/Decode.lean ====
section
/-! SUPPORT. Small facts about the command word: the operand ranges always hold, a level survives its bit, and the fields
of an encoded MEASURE. -/
namespace Sys2Proof

@[simp] theorem LineLevel.ofBool_bit (l : LineLevel) : LineLevel.ofBool (l.bit.getLsbD 0) = l := by
  cases l <;> rfl

theorem LineLevel.toNat_le_one (l : LineLevel) : l.toNat ≤ 1 := by cases l <;> decide

/-- Every operand of an `Instr` fits its field, so every command is well formed. -/
theorem Instr.wellFormed_always (i : Instr) : i.wellFormed = true := by
  cases i with
  | nop => rfl
  | read => rfl
  | measure l n =>
    have hn := n.isLt
    simp only [Instr.wellFormed, Instr.toAsm, Asm.wellFormed, Bool.and_eq_true, decide_eq_true_eq]
    exact ⟨l.toNat_le_one, by omega⟩

/-- An encoded MEASURE, bit by bit: R45's diagram read from the right. -/
theorem encode_measure_bit (l : LineLevel) (n : TickCount) (i : Nat) :
    (encode (.measure l n)).getLsbD i =
      if i < 4 then decide (i = 1) else if i < 8 then false else if i < 9 then decide (l = .high)
      else if i < 16 then false else n.getLsbD (i - 16) := by
  show BitVec.getLsbD (w := 16 + 7 + 1 + 4 + 4) (n ++ 0#7 ++ l.bit ++ 0#4 ++ 0x2#4) i = _
  simp only [BitVec.getLsbD_append]
  rcases Nat.lt_or_ge i 4 with h | h
  · have : i = 0 ∨ i = 1 ∨ i = 2 ∨ i = 3 := by omega
    rcases this with rfl | rfl | rfl | rfl <;> rfl
  · rcases Nat.lt_or_ge i 8 with h8 | h8
    · simp [show ¬ i < 4 by omega, show i - 4 < 4 by omega, h8]
    · rcases Nat.lt_or_ge i 9 with h9 | h9
      · obtain rfl : i = 8 := by omega
        cases l <;> rfl
      · rcases Nat.lt_or_ge i 16 with h16 | h16
        · simp [show ¬ i < 4 by omega, show ¬ i - 4 < 4 by omega, show ¬ i - 4 - 4 = 0 by omega,
            show i - 4 - 4 - 1 < 7 by omega, show ¬ i < 8 by omega, show ¬ i < 9 by omega, h16]
        · simp [show ¬ i < 4 by omega, show ¬ i - 4 < 4 by omega, show ¬ i - 4 - 4 = 0 by omega,
            show ¬ i - 4 - 4 - 1 < 7 by omega, show ¬ i < 8 by omega, show ¬ i < 9 by omega,
            show ¬ i < 16 by omega, show i - 4 - 4 - 1 - 7 = i - 16 by omega]

end Sys2Proof
end

