-- ==== Sys2Proof/Laws/State.lean ====
section
/-! SUPPORT. One lemma per field per update of the state, each true by rfl, so that no proof unfolds an update. -/
namespace Sys2Proof.Machine

section
variable (s : State)
@[simp] theorem acceptFlags_phase : (acceptFlags s).phase = s.phase := rfl
@[simp] theorem acceptFlags_cnt : (acceptFlags s).cnt = s.cnt := rfl
@[simp] theorem acceptFlags_bitcnt : (acceptFlags s).bitcnt = s.bitcnt := rfl
@[simp] theorem acceptFlags_shreg : (acceptFlags s).shreg = s.shreg := rfl
@[simp] theorem acceptFlags_mlevel : (acceptFlags s).mlevel = s.mlevel := rfl
@[simp] theorem acceptFlags_mto : (acceptFlags s).mto = s.mto := rfl
@[simp] theorem acceptFlags_lineOe : (acceptFlags s).lineOe = s.lineOe := rfl
@[simp] theorem acceptFlags_lineOut : (acceptFlags s).lineOut = s.lineOut := rfl
@[simp] theorem acceptFlags_done : (acceptFlags s).done = false := rfl
@[simp] theorem acceptFlags_result : (acceptFlags s).result = .ok := rfl
@[simp] theorem acceptFlags_cmderr : (acceptFlags s).cmderr = false := rfl
@[simp] theorem acceptFlags_endph : (acceptFlags s).endph = s.endph := rfl
@[simp] theorem acceptFlags_frame0 : (acceptFlags s).frame0 = s.frame0 := rfl
@[simp] theorem acceptFlags_frame1 : (acceptFlags s).frame1 = s.frame1 := rfl
@[simp] theorem acceptFlags_hum : (acceptFlags s).hum = s.hum := rfl
@[simp] theorem acceptFlags_temp : (acceptFlags s).temp = s.temp := rfl
@[simp] theorem acceptFlags_hold : (acceptFlags s).hold = s.hold := rfl
@[simp] theorem acceptFlags_par : (acceptFlags s).par = s.par := rfl
@[simp] theorem acceptFlags_resetHeld : (acceptFlags s).resetHeld = s.resetHeld := rfl
@[simp] theorem acceptFlags_inbox : (acceptFlags s).inbox = s.inbox := rfl
@[simp] theorem acceptFlags_hostReads : (acceptFlags s).hostReads = s.hostReads := rfl
@[simp] theorem acceptFlags_ticks : (acceptFlags s).ticks = s.ticks := rfl
end

section
variable (s : State)
@[simp] theorem clearCommandError_phase : (clearCommandError s).phase = s.phase := rfl
@[simp] theorem clearCommandError_cnt : (clearCommandError s).cnt = s.cnt := rfl
@[simp] theorem clearCommandError_bitcnt : (clearCommandError s).bitcnt = s.bitcnt := rfl
@[simp] theorem clearCommandError_shreg : (clearCommandError s).shreg = s.shreg := rfl
@[simp] theorem clearCommandError_mlevel : (clearCommandError s).mlevel = s.mlevel := rfl
@[simp] theorem clearCommandError_mto : (clearCommandError s).mto = s.mto := rfl
@[simp] theorem clearCommandError_lineOe : (clearCommandError s).lineOe = s.lineOe := rfl
@[simp] theorem clearCommandError_lineOut : (clearCommandError s).lineOut = s.lineOut := rfl
@[simp] theorem clearCommandError_done : (clearCommandError s).done = s.done := rfl
@[simp] theorem clearCommandError_result : (clearCommandError s).result = s.result := rfl
@[simp] theorem clearCommandError_cmderr : (clearCommandError s).cmderr = false := rfl
@[simp] theorem clearCommandError_endph : (clearCommandError s).endph = s.endph := rfl
@[simp] theorem clearCommandError_frame0 : (clearCommandError s).frame0 = s.frame0 := rfl
@[simp] theorem clearCommandError_frame1 : (clearCommandError s).frame1 = s.frame1 := rfl
@[simp] theorem clearCommandError_hum : (clearCommandError s).hum = s.hum := rfl
@[simp] theorem clearCommandError_temp : (clearCommandError s).temp = s.temp := rfl
@[simp] theorem clearCommandError_hold : (clearCommandError s).hold = s.hold := rfl
@[simp] theorem clearCommandError_par : (clearCommandError s).par = s.par := rfl
@[simp] theorem clearCommandError_resetHeld : (clearCommandError s).resetHeld = s.resetHeld := rfl
@[simp] theorem clearCommandError_inbox : (clearCommandError s).inbox = s.inbox := rfl
@[simp] theorem clearCommandError_hostReads : (clearCommandError s).hostReads = s.hostReads := rfl
@[simp] theorem clearCommandError_ticks : (clearCommandError s).ticks = s.ticks := rfl
end

section
variable (s : State)
@[simp] theorem rejectCommand_phase : (rejectCommand s).phase = s.phase := rfl
@[simp] theorem rejectCommand_cnt : (rejectCommand s).cnt = s.cnt := rfl
@[simp] theorem rejectCommand_bitcnt : (rejectCommand s).bitcnt = s.bitcnt := rfl
@[simp] theorem rejectCommand_shreg : (rejectCommand s).shreg = s.shreg := rfl
@[simp] theorem rejectCommand_mlevel : (rejectCommand s).mlevel = s.mlevel := rfl
@[simp] theorem rejectCommand_mto : (rejectCommand s).mto = s.mto := rfl
@[simp] theorem rejectCommand_lineOe : (rejectCommand s).lineOe = s.lineOe := rfl
@[simp] theorem rejectCommand_lineOut : (rejectCommand s).lineOut = s.lineOut := rfl
@[simp] theorem rejectCommand_done : (rejectCommand s).done = s.done := rfl
@[simp] theorem rejectCommand_result : (rejectCommand s).result = s.result := rfl
@[simp] theorem rejectCommand_cmderr : (rejectCommand s).cmderr = true := rfl
@[simp] theorem rejectCommand_endph : (rejectCommand s).endph = s.endph := rfl
@[simp] theorem rejectCommand_frame0 : (rejectCommand s).frame0 = s.frame0 := rfl
@[simp] theorem rejectCommand_frame1 : (rejectCommand s).frame1 = s.frame1 := rfl
@[simp] theorem rejectCommand_hum : (rejectCommand s).hum = s.hum := rfl
@[simp] theorem rejectCommand_temp : (rejectCommand s).temp = s.temp := rfl
@[simp] theorem rejectCommand_hold : (rejectCommand s).hold = s.hold := rfl
@[simp] theorem rejectCommand_par : (rejectCommand s).par = s.par := rfl
@[simp] theorem rejectCommand_resetHeld : (rejectCommand s).resetHeld = s.resetHeld := rfl
@[simp] theorem rejectCommand_inbox : (rejectCommand s).inbox = s.inbox := rfl
@[simp] theorem rejectCommand_hostReads : (rejectCommand s).hostReads = s.hostReads := rfl
@[simp] theorem rejectCommand_ticks : (rejectCommand s).ticks = s.ticks := rfl
end

section
variable (r : Result) (s : State)
@[simp] theorem finish_phase : (finish r s).phase = .idle := rfl
@[simp] theorem finish_cnt : (finish r s).cnt = 0 := rfl
@[simp] theorem finish_bitcnt : (finish r s).bitcnt = s.bitcnt := rfl
@[simp] theorem finish_shreg : (finish r s).shreg = s.shreg := rfl
@[simp] theorem finish_mlevel : (finish r s).mlevel = s.mlevel := rfl
@[simp] theorem finish_mto : (finish r s).mto = s.mto := rfl
@[simp] theorem finish_lineOe : (finish r s).lineOe = false := rfl
@[simp] theorem finish_lineOut : (finish r s).lineOut = .low := rfl
@[simp] theorem finish_done : (finish r s).done = true := rfl
@[simp] theorem finish_result : (finish r s).result = r := rfl
@[simp] theorem finish_cmderr : (finish r s).cmderr = s.cmderr := rfl
@[simp] theorem finish_endph : (finish r s).endph = s.phase := rfl
@[simp] theorem finish_frame0 : (finish r s).frame0 = s.frame0 := rfl
@[simp] theorem finish_frame1 : (finish r s).frame1 = s.frame1 := rfl
@[simp] theorem finish_hum : (finish r s).hum = s.hum := rfl
@[simp] theorem finish_temp : (finish r s).temp = s.temp := rfl
@[simp] theorem finish_hold : (finish r s).hold = s.hold := rfl
@[simp] theorem finish_par : (finish r s).par = s.par := rfl
@[simp] theorem finish_resetHeld : (finish r s).resetHeld = s.resetHeld := rfl
@[simp] theorem finish_inbox : (finish r s).inbox = s.inbox := rfl
@[simp] theorem finish_hostReads : (finish r s).hostReads = s.hostReads := rfl
@[simp] theorem finish_ticks : (finish r s).ticks = s.ticks := rfl
end

section
variable (p : Phase) (s : State)
@[simp] theorem startHold_phase : (startHold p s).phase = p := rfl
@[simp] theorem startHold_cnt : (startHold p s).cnt = 0 := rfl
@[simp] theorem startHold_bitcnt : (startHold p s).bitcnt = s.bitcnt := rfl
@[simp] theorem startHold_shreg : (startHold p s).shreg = s.shreg := rfl
@[simp] theorem startHold_mlevel : (startHold p s).mlevel = s.mlevel := rfl
@[simp] theorem startHold_mto : (startHold p s).mto = s.mto := rfl
@[simp] theorem startHold_lineOe : (startHold p s).lineOe = s.lineOe := rfl
@[simp] theorem startHold_lineOut : (startHold p s).lineOut = s.lineOut := rfl
@[simp] theorem startHold_done : (startHold p s).done = s.done := rfl
@[simp] theorem startHold_result : (startHold p s).result = s.result := rfl
@[simp] theorem startHold_cmderr : (startHold p s).cmderr = s.cmderr := rfl
@[simp] theorem startHold_endph : (startHold p s).endph = s.endph := rfl
@[simp] theorem startHold_frame0 : (startHold p s).frame0 = s.frame0 := rfl
@[simp] theorem startHold_frame1 : (startHold p s).frame1 = s.frame1 := rfl
@[simp] theorem startHold_hum : (startHold p s).hum = s.hum := rfl
@[simp] theorem startHold_temp : (startHold p s).temp = s.temp := rfl
@[simp] theorem startHold_hold : (startHold p s).hold = s.hold := rfl
@[simp] theorem startHold_par : (startHold p s).par = s.par := rfl
@[simp] theorem startHold_resetHeld : (startHold p s).resetHeld = s.resetHeld := rfl
@[simp] theorem startHold_inbox : (startHold p s).inbox = s.inbox := rfl
@[simp] theorem startHold_hostReads : (startHold p s).hostReads = s.hostReads := rfl
@[simp] theorem startHold_ticks : (startHold p s).ticks = s.ticks := rfl
end

section
variable (l : LineLevel) (n : TickCount) (s : State)
@[simp] theorem acceptMeasure_phase : (acceptMeasure l n s).phase = .meas := rfl
@[simp] theorem acceptMeasure_cnt : (acceptMeasure l n s).cnt = 0 := rfl
@[simp] theorem acceptMeasure_bitcnt : (acceptMeasure l n s).bitcnt = s.bitcnt := rfl
@[simp] theorem acceptMeasure_shreg : (acceptMeasure l n s).shreg = s.shreg := rfl
@[simp] theorem acceptMeasure_mlevel : (acceptMeasure l n s).mlevel = l := rfl
@[simp] theorem acceptMeasure_mto : (acceptMeasure l n s).mto = n := rfl
@[simp] theorem acceptMeasure_lineOe : (acceptMeasure l n s).lineOe = s.lineOe := rfl
@[simp] theorem acceptMeasure_lineOut : (acceptMeasure l n s).lineOut = s.lineOut := rfl
@[simp] theorem acceptMeasure_done : (acceptMeasure l n s).done = false := rfl
@[simp] theorem acceptMeasure_result : (acceptMeasure l n s).result = .ok := rfl
@[simp] theorem acceptMeasure_cmderr : (acceptMeasure l n s).cmderr = false := rfl
@[simp] theorem acceptMeasure_endph : (acceptMeasure l n s).endph = s.endph := rfl
@[simp] theorem acceptMeasure_frame0 : (acceptMeasure l n s).frame0 = s.frame0 := rfl
@[simp] theorem acceptMeasure_frame1 : (acceptMeasure l n s).frame1 = s.frame1 := rfl
@[simp] theorem acceptMeasure_hum : (acceptMeasure l n s).hum = s.hum := rfl
@[simp] theorem acceptMeasure_temp : (acceptMeasure l n s).temp = s.temp := rfl
@[simp] theorem acceptMeasure_hold : (acceptMeasure l n s).hold = s.hold := rfl
@[simp] theorem acceptMeasure_par : (acceptMeasure l n s).par = s.par := rfl
@[simp] theorem acceptMeasure_resetHeld : (acceptMeasure l n s).resetHeld = s.resetHeld := rfl
@[simp] theorem acceptMeasure_inbox : (acceptMeasure l n s).inbox = s.inbox := rfl
@[simp] theorem acceptMeasure_hostReads : (acceptMeasure l n s).hostReads = s.hostReads := rfl
@[simp] theorem acceptMeasure_ticks : (acceptMeasure l n s).ticks = s.ticks := rfl
end

section
variable (s : State)
@[simp] theorem acceptRead_phase : (acceptRead s).phase = .wake := rfl
@[simp] theorem acceptRead_cnt : (acceptRead s).cnt = 0 := rfl
@[simp] theorem acceptRead_bitcnt : (acceptRead s).bitcnt = 0 := rfl
@[simp] theorem acceptRead_shreg : (acceptRead s).shreg = 0 := rfl
@[simp] theorem acceptRead_mlevel : (acceptRead s).mlevel = s.mlevel := rfl
@[simp] theorem acceptRead_mto : (acceptRead s).mto = s.mto := rfl
@[simp] theorem acceptRead_lineOe : (acceptRead s).lineOe = true := rfl
@[simp] theorem acceptRead_lineOut : (acceptRead s).lineOut = .low := rfl
@[simp] theorem acceptRead_done : (acceptRead s).done = false := rfl
@[simp] theorem acceptRead_result : (acceptRead s).result = .ok := rfl
@[simp] theorem acceptRead_cmderr : (acceptRead s).cmderr = false := rfl
@[simp] theorem acceptRead_endph : (acceptRead s).endph = s.endph := rfl
@[simp] theorem acceptRead_frame0 : (acceptRead s).frame0 = s.frame0 := rfl
@[simp] theorem acceptRead_frame1 : (acceptRead s).frame1 = s.frame1 := rfl
@[simp] theorem acceptRead_hum : (acceptRead s).hum = s.hum := rfl
@[simp] theorem acceptRead_temp : (acceptRead s).temp = s.temp := rfl
@[simp] theorem acceptRead_hold : (acceptRead s).hold = s.hold := rfl
@[simp] theorem acceptRead_par : (acceptRead s).par = s.par := rfl
@[simp] theorem acceptRead_resetHeld : (acceptRead s).resetHeld = s.resetHeld := rfl
@[simp] theorem acceptRead_inbox : (acceptRead s).inbox = s.inbox := rfl
@[simp] theorem acceptRead_hostReads : (acceptRead s).hostReads = s.hostReads := rfl
@[simp] theorem acceptRead_ticks : (acceptRead s).ticks = s.ticks := rfl
end

section
variable (s : State)
@[simp] theorem commit_phase : (commit s).phase = s.phase := rfl
@[simp] theorem commit_cnt : (commit s).cnt = s.cnt := rfl
@[simp] theorem commit_bitcnt : (commit s).bitcnt = s.bitcnt := rfl
@[simp] theorem commit_shreg : (commit s).shreg = s.shreg := rfl
@[simp] theorem commit_mlevel : (commit s).mlevel = s.mlevel := rfl
@[simp] theorem commit_mto : (commit s).mto = s.mto := rfl
@[simp] theorem commit_lineOe : (commit s).lineOe = s.lineOe := rfl
@[simp] theorem commit_lineOut : (commit s).lineOut = s.lineOut := rfl
@[simp] theorem commit_done : (commit s).done = s.done := rfl
@[simp] theorem commit_result : (commit s).result = s.result := rfl
@[simp] theorem commit_cmderr : (commit s).cmderr = s.cmderr := rfl
@[simp] theorem commit_endph : (commit s).endph = s.endph := rfl
@[simp] theorem commit_frame0 : (commit s).frame0 = frame0Word (frameByte0 s.shreg) (frameByte1 s.shreg) (frameByte2 s.shreg) (frameByte3 s.shreg) := rfl
@[simp] theorem commit_frame1 : (commit s).frame1 = (frameByte4 s.shreg).zeroExtend 32 := rfl
@[simp] theorem commit_hum : (commit s).hum = humidityWord (frameByte0 s.shreg) (frameByte1 s.shreg) := rfl
@[simp] theorem commit_temp : (commit s).temp = temperatureWord (frameByte2 s.shreg) (frameByte3 s.shreg) := rfl
@[simp] theorem commit_hold : (commit s).hold = s.hold := rfl
@[simp] theorem commit_par : (commit s).par = s.par := rfl
@[simp] theorem commit_resetHeld : (commit s).resetHeld = s.resetHeld := rfl
@[simp] theorem commit_inbox : (commit s).inbox = s.inbox := rfl
@[simp] theorem commit_hostReads : (commit s).hostReads = s.hostReads := rfl
@[simp] theorem commit_ticks : (commit s).ticks = s.ticks := rfl
end

section
variable (n : TickCount) (s : State)
@[simp] theorem takeBit_phase : (takeBit n s).phase = s.phase := rfl
@[simp] theorem takeBit_cnt : (takeBit n s).cnt = s.cnt := rfl
@[simp] theorem takeBit_bitcnt : (takeBit n s).bitcnt = s.bitcnt + 1 := rfl
@[simp] theorem takeBit_shreg : (takeBit n s).shreg = shiftIn s.shreg (bitOfCount s.par n) := rfl
@[simp] theorem takeBit_mlevel : (takeBit n s).mlevel = s.mlevel := rfl
@[simp] theorem takeBit_mto : (takeBit n s).mto = s.mto := rfl
@[simp] theorem takeBit_lineOe : (takeBit n s).lineOe = s.lineOe := rfl
@[simp] theorem takeBit_lineOut : (takeBit n s).lineOut = s.lineOut := rfl
@[simp] theorem takeBit_done : (takeBit n s).done = s.done := rfl
@[simp] theorem takeBit_result : (takeBit n s).result = s.result := rfl
@[simp] theorem takeBit_cmderr : (takeBit n s).cmderr = s.cmderr := rfl
@[simp] theorem takeBit_endph : (takeBit n s).endph = s.endph := rfl
@[simp] theorem takeBit_frame0 : (takeBit n s).frame0 = s.frame0 := rfl
@[simp] theorem takeBit_frame1 : (takeBit n s).frame1 = s.frame1 := rfl
@[simp] theorem takeBit_hum : (takeBit n s).hum = s.hum := rfl
@[simp] theorem takeBit_temp : (takeBit n s).temp = s.temp := rfl
@[simp] theorem takeBit_hold : (takeBit n s).hold = s.hold := rfl
@[simp] theorem takeBit_par : (takeBit n s).par = s.par := rfl
@[simp] theorem takeBit_resetHeld : (takeBit n s).resetHeld = s.resetHeld := rfl
@[simp] theorem takeBit_inbox : (takeBit n s).inbox = s.inbox := rfl
@[simp] theorem takeBit_hostReads : (takeBit n s).hostReads = s.hostReads := rfl
@[simp] theorem takeBit_ticks : (takeBit n s).ticks = s.ticks := rfl
end

section
variable (s : State)
@[simp] theorem resetDevice_phase : (resetDevice s).phase = .idle := rfl
@[simp] theorem resetDevice_cnt : (resetDevice s).cnt = 0 := rfl
@[simp] theorem resetDevice_bitcnt : (resetDevice s).bitcnt = 0 := rfl
@[simp] theorem resetDevice_shreg : (resetDevice s).shreg = 0 := rfl
@[simp] theorem resetDevice_mlevel : (resetDevice s).mlevel = .low := rfl
@[simp] theorem resetDevice_mto : (resetDevice s).mto = 0 := rfl
@[simp] theorem resetDevice_lineOe : (resetDevice s).lineOe = false := rfl
@[simp] theorem resetDevice_lineOut : (resetDevice s).lineOut = .low := rfl
@[simp] theorem resetDevice_done : (resetDevice s).done = false := rfl
@[simp] theorem resetDevice_result : (resetDevice s).result = .ok := rfl
@[simp] theorem resetDevice_cmderr : (resetDevice s).cmderr = false := rfl
@[simp] theorem resetDevice_endph : (resetDevice s).endph = .idle := rfl
@[simp] theorem resetDevice_frame0 : (resetDevice s).frame0 = 0 := rfl
@[simp] theorem resetDevice_frame1 : (resetDevice s).frame1 = 0 := rfl
@[simp] theorem resetDevice_hum : (resetDevice s).hum = 0 := rfl
@[simp] theorem resetDevice_temp : (resetDevice s).temp = 0 := rfl
@[simp] theorem resetDevice_hold : (resetDevice s).hold = 0 := rfl
@[simp] theorem resetDevice_par : (resetDevice s).par = s.par := rfl
@[simp] theorem resetDevice_resetHeld : (resetDevice s).resetHeld = false := rfl
@[simp] theorem resetDevice_inbox : (resetDevice s).inbox = s.inbox := rfl
@[simp] theorem resetDevice_hostReads : (resetDevice s).hostReads = s.hostReads := rfl
@[simp] theorem resetDevice_ticks : (resetDevice s).ticks = s.ticks := rfl
end

section
variable (v : Word) (s : State)
@[simp] theorem returnWord_phase : (returnWord v s).phase = s.phase := rfl
@[simp] theorem returnWord_cnt : (returnWord v s).cnt = s.cnt := rfl
@[simp] theorem returnWord_bitcnt : (returnWord v s).bitcnt = s.bitcnt := rfl
@[simp] theorem returnWord_shreg : (returnWord v s).shreg = s.shreg := rfl
@[simp] theorem returnWord_mlevel : (returnWord v s).mlevel = s.mlevel := rfl
@[simp] theorem returnWord_mto : (returnWord v s).mto = s.mto := rfl
@[simp] theorem returnWord_lineOe : (returnWord v s).lineOe = s.lineOe := rfl
@[simp] theorem returnWord_lineOut : (returnWord v s).lineOut = s.lineOut := rfl
@[simp] theorem returnWord_done : (returnWord v s).done = s.done := rfl
@[simp] theorem returnWord_result : (returnWord v s).result = s.result := rfl
@[simp] theorem returnWord_cmderr : (returnWord v s).cmderr = s.cmderr := rfl
@[simp] theorem returnWord_endph : (returnWord v s).endph = s.endph := rfl
@[simp] theorem returnWord_frame0 : (returnWord v s).frame0 = s.frame0 := rfl
@[simp] theorem returnWord_frame1 : (returnWord v s).frame1 = s.frame1 := rfl
@[simp] theorem returnWord_hum : (returnWord v s).hum = s.hum := rfl
@[simp] theorem returnWord_temp : (returnWord v s).temp = s.temp := rfl
@[simp] theorem returnWord_hold : (returnWord v s).hold = s.hold := rfl
@[simp] theorem returnWord_par : (returnWord v s).par = s.par := rfl
@[simp] theorem returnWord_resetHeld : (returnWord v s).resetHeld = s.resetHeld := rfl
@[simp] theorem returnWord_inbox : (returnWord v s).inbox = s.inbox := rfl
@[simp] theorem returnWord_hostReads : (returnWord v s).hostReads = v :: s.hostReads := rfl
@[simp] theorem returnWord_ticks : (returnWord v s).ticks = s.ticks := rfl
end

section
variable (s : State)
@[simp] theorem takeEvent_phase : (takeEvent s).phase = s.phase := rfl
@[simp] theorem takeEvent_cnt : (takeEvent s).cnt = s.cnt := rfl
@[simp] theorem takeEvent_bitcnt : (takeEvent s).bitcnt = s.bitcnt := rfl
@[simp] theorem takeEvent_shreg : (takeEvent s).shreg = s.shreg := rfl
@[simp] theorem takeEvent_mlevel : (takeEvent s).mlevel = s.mlevel := rfl
@[simp] theorem takeEvent_mto : (takeEvent s).mto = s.mto := rfl
@[simp] theorem takeEvent_lineOe : (takeEvent s).lineOe = s.lineOe := rfl
@[simp] theorem takeEvent_lineOut : (takeEvent s).lineOut = s.lineOut := rfl
@[simp] theorem takeEvent_done : (takeEvent s).done = s.done := rfl
@[simp] theorem takeEvent_result : (takeEvent s).result = s.result := rfl
@[simp] theorem takeEvent_cmderr : (takeEvent s).cmderr = s.cmderr := rfl
@[simp] theorem takeEvent_endph : (takeEvent s).endph = s.endph := rfl
@[simp] theorem takeEvent_frame0 : (takeEvent s).frame0 = s.frame0 := rfl
@[simp] theorem takeEvent_frame1 : (takeEvent s).frame1 = s.frame1 := rfl
@[simp] theorem takeEvent_hum : (takeEvent s).hum = s.hum := rfl
@[simp] theorem takeEvent_temp : (takeEvent s).temp = s.temp := rfl
@[simp] theorem takeEvent_hold : (takeEvent s).hold = s.hold := rfl
@[simp] theorem takeEvent_par : (takeEvent s).par = s.par := rfl
@[simp] theorem takeEvent_resetHeld : (takeEvent s).resetHeld = s.resetHeld := rfl
@[simp] theorem takeEvent_inbox : (takeEvent s).inbox = s.inbox.tail := rfl
@[simp] theorem takeEvent_hostReads : (takeEvent s).hostReads = s.hostReads := rfl
@[simp] theorem takeEvent_ticks : (takeEvent s).ticks = s.ticks := rfl
end

end Sys2Proof.Machine
end

