-- ==== Sys2Proof/Laws/Ops.lean ====
section
/-! SUPPORT. What each shared operation and each tick can do, said once: later proofs cite these lemmas and do not unfold
the operations. -/
namespace Sys2Proof.Machine

theorem toNat_succ {c : TickCount} (h : c.toNat + 1 < 65536) : (c + 1).toNat = c.toNat + 1 := by
  rw [BitVec.toNat_add]; exact Nat.mod_eq_of_lt h

/-- A counted sample either exceeds the timeout and ends the operation, or adds one without wrapping. -/
theorem countSample_cases (n : TickCount) (s : State) :
    (n.toNat < s.cnt.toNat + 1 ∧ countSample n s = finish .timeout s) ∨
    (s.cnt.toNat + 1 ≤ n.toNat ∧ (s.cnt + 1).toNat = s.cnt.toNat + 1 ∧
      countSample n s = { s with cnt := s.cnt + 1 }) := by
  unfold countSample
  split
  · exact .inl ⟨by omega, rfl⟩
  · exact .inr ⟨by omega, toNat_succ (by have := n.isLt; omega), rfl⟩

/-- A hold phase that begins with the sample that ended the one before has count 1 (R61). -/
theorem nextHold_eq {p : Phase} {s : State} {l : LineLevel} {n : TickCount}
    (h : holdParams (startHold p s) = some (l, n)) (hn : 1 ≤ n.toNat) :
    nextHold p s = { s with phase := p, cnt := 1 } := by
  unfold nextHold
  rw [h]
  have : ¬ (startHold p s).cnt.toNat + 1 > n.toNat := by simp; omega
  simp only [countSample, this, if_false]
  simp [startHold]

theorem nextHold_presH {s : State} (hv : s.par.InRange) :
    nextHold .presH s = { s with phase := .presH, cnt := 1 } :=
  nextHold_eq (l := .high) (n := s.par.toPresH) rfl hv.2.2.2.1

theorem nextHold_bitL {s : State} (hv : s.par.InRange) : nextHold .bitL s = { s with phase := .bitL, cnt := 1 } :=
  nextHold_eq (l := .low) (n := s.par.toBitL) rfl hv.2.2.2.2.1

theorem nextHold_bitH {s : State} (hv : s.par.InRange) : nextHold .bitH s = { s with phase := .bitH, cnt := 1 } :=
  nextHold_eq (l := .high) (n := s.par.toBitH) rfl hv.2.2.2.2.2.1

/-- A phase is one of the eight named ones or a reserved code. -/
theorem Phase.named (p : Phase) : p = .idle ∨ p = .wake ∨ p = .req ∨ p = .presL ∨ p = .presH ∨ p = .bitL ∨
    p = .bitH ∨ p = .meas ∨ ∃ k, p = .reserved k := by
  cases p <;> simp

/-- What can follow the end of a hold of count `s.cnt`, with the parameters within the ranges of R5 (R61, R65, R76). -/
inductive HoldEnd (s : State) : State → Prop where
  | presence (h : s.phase = .presL) : HoldEnd s { s with phase := .presH, cnt := 1 }
  | firstBit (h : s.phase = .presH) : HoldEnd s { s with phase := .bitL, cnt := 1 }
  | highHold (h : s.phase = .bitL) : HoldEnd s { s with phase := .bitH, cnt := 1 }
  | nextBit (h : s.phase = .bitH) (more : s.bitcnt + 1 ≠ 40) :
      HoldEnd s { takeBit s.cnt s with phase := .bitL, cnt := 1 }
  | frameGood (h : s.phase = .bitH) (last : s.bitcnt + 1 = 40) (good : frameOk (takeBit s.cnt s).shreg = true) :
      HoldEnd s (finish .ok (commit (takeBit s.cnt s)))
  | frameBad (h : s.phase = .bitH) (last : s.bitcnt + 1 = 40) (bad : frameOk (takeBit s.cnt s).shreg = false) :
      HoldEnd s (finish .checksumError (takeBit s.cnt s))
  | measured (h : s.phase = .meas) : HoldEnd s (finish .ok { s with hold := s.cnt.zeroExtend 32 })

theorem endHold_spec {s : State} {e : LineLevel} {n : TickCount} (hv : s.par.InRange)
    (h : holdParams s = some (e, n)) : HoldEnd s (endHold s.cnt s) := by
  rcases Phase.named s.phase with hp | hp | hp | hp | hp | hp | hp | hp | ⟨k, hp⟩
  case inr.inr.inr.inl =>
    have : endHold s.cnt s = nextHold .presH s := by simp [endHold, hp]
    rw [this, nextHold_presH hv]; exact .presence hp
  case inr.inr.inr.inr.inl =>
    have : endHold s.cnt s = nextHold .bitL s := by simp [endHold, hp]
    rw [this, nextHold_bitL hv]; exact .firstBit hp
  case inr.inr.inr.inr.inr.inl =>
    have : endHold s.cnt s = nextHold .bitH s := by simp [endHold, hp]
    rw [this, nextHold_bitH hv]; exact .highHold hp
  case inr.inr.inr.inr.inr.inr.inl =>
    have hd : endHold s.cnt s = decodeBit s.cnt s := by simp [endHold, hp]
    have hv' : (takeBit s.cnt s).par.InRange := hv
    rw [hd]
    unfold decodeBit
    split
    · next hb =>
      unfold complete
      split
      · next hf => exact .frameGood hp hb hf
      · next hf => exact .frameBad hp hb (by simpa using hf)
    · next hb => rw [nextHold_bitL hv']; exact .nextBit hp hb
  case inr.inr.inr.inr.inr.inr.inr.inl =>
    have : endHold s.cnt s = measureEnd s.cnt s := by simp [endHold, hp]
    rw [this]; exact .measured hp
  all_goals simp [holdParams, hp] at h

/-- Everything a tick with sample `l` can do (R60, R64, R71, R72), with the parameters within the ranges of R5. -/
inductive TickEnd (l : LineLevel) (s : State) : State → Prop where
  | idle (h : s.phase = .idle) : TickEnd l s s
  | wakeOver (h : s.phase = .wake) (c : s.cnt + 1 = s.par.tWake) :
      TickEnd l s { s with lineOut := .high, cnt := 0, phase := .req }
  | wakeOn (h : s.phase = .wake) (c : s.cnt + 1 ≠ s.par.tWake) : TickEnd l s { s with cnt := s.cnt + 1 }
  | reqOver (h : s.phase = .req) (c : s.cnt + 1 = s.par.tReq) :
      TickEnd l s { s with lineOe := false, lineOut := .low, cnt := 0, phase := .presL }
  | reqOn (h : s.phase = .req) (c : s.cnt + 1 ≠ s.par.tReq) : TickEnd l s { s with cnt := s.cnt + 1 }
  | timeout (n : TickCount) (h : holdParams s = some (l, n)) (c : n.toNat < s.cnt.toNat + 1) :
      TickEnd l s (finish .timeout s)
  | count (n : TickCount) (h : holdParams s = some (l, n)) (c : s.cnt.toNat + 1 ≤ n.toNat)
      (nowrap : (s.cnt + 1).toNat = s.cnt.toNat + 1) : TickEnd l s { s with cnt := s.cnt + 1 }
  | holdEnd (e : LineLevel) (n : TickCount) (t : State) (h : holdParams s = some (e, n)) (ne : l ≠ e)
      (he : HoldEnd s t) : TickEnd l s t

theorem holdStep_spec {l e : LineLevel} {n : TickCount} {s : State} (hv : s.par.InRange)
    (h : holdParams s = some (e, n)) : TickEnd l s (holdStep l s) := by
  unfold holdStep
  simp only [h]
  split
  · next heq =>
    subst heq
    rcases countSample_cases n s with ⟨h1, h2⟩ | ⟨h1, h2, h3⟩
    · rw [h2]; exact .timeout n h h1
    · rw [h3]; exact .count n h h1 h2
  · next hne => exact .holdEnd e n _ h hne (endHold_spec hv h)

theorem tick_spec {l : LineLevel} {s t : State} (hv : s.par.InRange) (h : tick l s = .next t) : TickEnd l s t := by
  rcases Phase.named s.phase with hp | hp | hp | hp | hp | hp | hp | hp | ⟨k, hp⟩ <;> simp only [tick, hp] at h
  case inl => injection h with h; subst h; exact .idle hp
  case inr.inl =>
    injection h with h; subst h; unfold wakeTick
    split
    · next hc => exact .wakeOver hp hc
    · next hc => exact .wakeOn hp hc
  case inr.inr.inl =>
    injection h with h; subst h; unfold reqTick
    split
    · next hc => exact .reqOver hp hc
    · next hc => exact .reqOn hp hc
  case inr.inr.inr.inr.inr.inr.inr.inr => simp at h
  all_goals
    injection h with h; subst h
    refine holdStep_spec hv (e := (holdParams s).get!.1) (n := (holdParams s).get!.2) ?_
    simp [holdParams, hp]

/-- A tick answers a next state unless the phase code is 8 to 15. -/
theorem tick_next (l : LineLevel) {s : State} (h : s.phase.isReserved = false) : ∃ t, tick l s = .next t := by
  cases hp : s.phase <;> simp [tick, hp, Phase.isReserved] at h ⊢

/-- Everything a command can do: it never stops the machine. -/
theorem exec_cases (i : Instr) (s : State) :
    (i = .nop ∧ exec i s = .next (clearCommandError s)) ∨
    (i ≠ .nop ∧ s.phase ≠ .idle ∧ exec i s = .next (rejectCommand s)) ∨
    (i = .read ∧ s.phase = .idle ∧ exec i s = .next (acceptRead s)) ∨
    (∃ l n, i = .measure l n ∧ s.phase = .idle ∧ exec i s = .next (acceptMeasure l n s)) := by
  by_cases hp : s.phase = .idle <;> cases i <;> simp [exec, execNop, execRead, execMeasure, hp]

/-- Everything a write of CMD can do. -/
theorem commandWrite_cases (v : Word) (s : State) :
    ((∃ e, decode v = .error e) ∧ commandWrite v s = .next (rejectCommand s)) ∨
    (∃ i, decode v = .ok i ∧ commandWrite v s = exec i s) := by
  unfold commandWrite
  cases decode v with
  | ok i => exact .inr ⟨i, rfl, rfl⟩
  | error e => exact .inl ⟨⟨e, rfl⟩, rfl⟩

/-- Everything a host read can do. -/
theorem busRead_cases {a : Nat} {w : AccessWidth} {s t : State} (h : busRead a w s = .next t) :
    ∃ r, accessReg s.par.base a w = .ok r ∧
      ((s.resetHeld = true ∧ t = returnWord 0 s) ∨
       (s.resetHeld = false ∧ t = returnWord (readReg s r) s)) := by
  unfold busRead readAccess at h
  split at h
  · next r hr =>
    refine ⟨r, hr, ?_⟩
    split at h
    · next hh => injection h with h; exact .inl ⟨hh, h.symm⟩
    · next hh =>
      split at h
      · simp at h
      · injection h with h
        exact .inr ⟨by simpa using hh, h.symm⟩
  · simp at h

/-- Everything a host write can do. -/
theorem busWrite_cases {a : Nat} {w : AccessWidth} {v : Word} {s t : State} (h : busWrite a w v s = .next t) :
    ∃ r, accessReg s.par.base a w = .ok r ∧
      ((s.resetHeld = true ∧ t = s) ∨
       (s.resetHeld = false ∧ r = .cmd ∧ commandWrite v s = .next t) ∨
       (s.resetHeld = false ∧ r ≠ .cmd ∧ t = s)) := by
  unfold busWrite writeAccess at h
  split at h
  · next r hr =>
    refine ⟨r, hr, ?_⟩
    cases hh : s.resetHeld with
    | true => simp [hh] at h; exact .inl ⟨rfl, h.symm⟩
    | false =>
      simp [hh] at h
      cases r with
      | cmd => exact .inr (.inl ⟨rfl, rfl, h⟩)
      | status | frame0 | frame1 | hum | temp | hold | reserved =>
        injection h with h
        exact .inr (.inr ⟨rfl, by simp, h.symm⟩)
  · simp at h

/-- A tick leaves the parameters, the inputs, the read words, the tick number and the reset input alone. -/
theorem tick_env {l : LineLevel} {s t : State} (hv : s.par.InRange) (h : tick l s = .next t) :
    t.par = s.par ∧ t.inbox = s.inbox ∧ t.hostReads = s.hostReads ∧ t.ticks = s.ticks ∧
      t.resetHeld = s.resetHeld := by
  cases tick_spec hv h with
  | holdEnd _ _ _ _ _ he => cases he <;> exact ⟨rfl, rfl, rfl, rfl, rfl⟩
  | _ => exact ⟨rfl, rfl, rfl, rfl, rfl⟩

/-- The register map gives each aligned offset of the window its register (10_state.md section 4). -/
theorem accessReg_offset {base off : Nat} {r : Reg} (hb : base % 32 = 0) (h4 : off % 4 = 0)
    (h : Reg.ofOffset off = some r) : accessReg base (base + off) .word = .ok r := by
  have h1 : (base + off) % 4 = 0 := by omega
  simp [accessReg, h1, h]

end Sys2Proof.Machine
end

