-- ==== Sys2Proof/Laws/PerInstr.lean ====
section
/-! SUPPORT. The family TableRow: every command's word satisfies the mask and match of its row of
spec/opcode_table.json, and its operands fit their fields. -/
namespace Sys2Proof.Laws.TableRow

/-- The mask of a command's row. -/
def mask : Instr → Word
  | .nop => 0xFFFFFFFF
  | .read => 0xFFFFFFFF
  | .measure _ _ => 0x0000FEFF

/-- The match of a command's row. -/
def pattern : Instr → Word
  | .nop => 0x00000000
  | .read => 0x00000001
  | .measure _ _ => 0x00000002

/-- The encoded command is well formed and meets its row. -/
def Statement (i : Instr) : Prop := i.wellFormed = true ∧ encode i &&& mask i = pattern i

theorem nop : Statement .nop := ⟨by decide, by decide⟩

theorem read : Statement .read := ⟨by decide, by decide⟩

theorem measure (level : LineLevel) (timeout : TickCount) : Statement (.measure level timeout) := by
  refine ⟨Instr.wellFormed_always _, ?_⟩
  apply BitVec.eq_of_getLsbD_eq
  intro i hi
  rw [BitVec.getLsbD_and, encode_measure_bit]
  interval_cases i <;> simp [mask, pattern]

end Sys2Proof.Laws.TableRow
end

