-- ==== Sys2Proof/Laws/Runs.lean ====
section
/-! SUPPORT. Runs of ticks: how they compose, that none stops the machine, and READ's two pulses in one step each. -/
namespace Sys2Proof.Machine

theorem runTicks_cons {l : LineLevel} {ls : List LineLevel} {s t : State} (h : tick l s = .next t) :
    runTicks (l :: ls) s = runTicks ls t := by
  simp [runTicks, h]

theorem runTicks_append {a b : List LineLevel} {s t : State} (h : runTicks a s = .next t) :
    runTicks (a ++ b) s = runTicks b t := by
  induction a generalizing s with
  | nil => simp only [runTicks] at h; injection h with h; subst h; rfl
  | cons l ls ih =>
    cases ht : tick l s with
    | next u => rw [runTicks_cons ht] at h; rw [List.cons_append, runTicks_cons ht]; exact ih h
    | fault f => simp [runTicks, ht] at h
    | refused r => simp [runTicks, ht] at h

/-- In IDLE time passes without effect (R10). -/
theorem runTicks_idle (ls : List LineLevel) {s : State} (h : s.phase = .idle) : runTicks ls s = .next s := by
  induction ls with
  | nil => rfl
  | cons l ls ih => rw [runTicks_cons (t := s) (by simp [tick, h])]; exact ih

/-- A tick never enters a phase code 8 to 15 (R12). -/
theorem tick_named {l : LineLevel} {s t : State} (hv : s.par.InRange) (hp : s.phase.isReserved = false)
    (h : tick l s = .next t) : t.phase.isReserved = false := by
  cases tick_spec hv h with
  | holdEnd _ _ _ _ _ he => cases he <;> rfl
  | idle _ => exact hp
  | wakeOn h1 _ => exact hp
  | reqOn h1 _ => exact hp
  | count _ _ _ _ => exact hp
  | wakeOver _ _ => rfl
  | reqOver _ _ => rfl
  | timeout _ _ _ => rfl

/-- No run of ticks stops the machine. -/
theorem runTicks_next (ls : List LineLevel) {s : State} (hv : s.par.InRange) (hp : s.phase.isReserved = false) :
    ∃ t, runTicks ls s = .next t := by
  induction ls generalizing s with
  | nil => exact ⟨s, rfl⟩
  | cons l ls ih =>
    obtain ⟨t, ht⟩ := tick_next l hp
    rw [runTicks_cons ht]
    exact ih ((tick_env hv ht).1 ▸ hv) (tick_named hv hp ht)

theorem tick_wake {l : LineLevel} {s : State} (hp : s.phase = .wake) : tick l s = .next (wakeTick s) := by
  simp [tick, hp]

theorem tick_wake_over {l : LineLevel} {s : State} (hp : s.phase = .wake) (h : s.cnt + 1 = s.par.tWake) :
    tick l s = .next { s with lineOut := .high, cnt := 0, phase := .req } :=
  (tick_wake hp).trans (congrArg Host.Outcome.next (if_pos h))

theorem tick_wake_on {l : LineLevel} {s : State} (hp : s.phase = .wake) (h : s.cnt + 1 ≠ s.par.tWake) :
    tick l s = .next { s with cnt := s.cnt + 1 } :=
  (tick_wake hp).trans (congrArg Host.Outcome.next (if_neg h))

/-- The ticks that count WAKE to its length end it, whatever the samples (R71). -/
theorem runTicks_wake_end (ls : List LineLevel) {s : State} (hp : s.phase = .wake) (hn : ls ≠ [])
    (hc : s.cnt.toNat + ls.length = s.par.tWake.toNat) :
    runTicks ls s = .next { s with lineOut := .high, cnt := 0, phase := .req } := by
  induction ls generalizing s with
  | nil => exact absurd rfl hn
  | cons l ls ih =>
    have hb := s.par.tWake.isLt
    rw [List.length_cons] at hc
    have h1 : (s.cnt + 1).toNat = s.cnt.toNat + 1 := toNat_succ (by omega)
    cases ls with
    | nil =>
      exact runTicks_cons (tick_wake_over hp (BitVec.eq_of_toNat_eq (by rw [h1]; simpa using hc)))
    | cons l' ls =>
      have : s.cnt + 1 ≠ s.par.tWake := fun h => by
        rw [← h, h1, List.length_cons] at hc; omega
      rw [runTicks_cons (tick_wake_on hp this)]
      exact ih (s := { s with cnt := s.cnt + 1 }) hp (by simp)
        (show (s.cnt + 1).toNat + _ = s.par.tWake.toNat by rw [h1]; omega)

theorem tick_req {l : LineLevel} {s : State} (hp : s.phase = .req) : tick l s = .next (reqTick s) := by
  simp [tick, hp]

theorem tick_req_over {l : LineLevel} {s : State} (hp : s.phase = .req) (h : s.cnt + 1 = s.par.tReq) :
    tick l s = .next { s with lineOe := false, lineOut := .low, cnt := 0, phase := .presL } :=
  (tick_req hp).trans (congrArg Host.Outcome.next (if_pos h))

theorem tick_req_on {l : LineLevel} {s : State} (hp : s.phase = .req) (h : s.cnt + 1 ≠ s.par.tReq) :
    tick l s = .next { s with cnt := s.cnt + 1 } :=
  (tick_req hp).trans (congrArg Host.Outcome.next (if_neg h))

/-- The ticks that count REQ to its length end it, whatever the samples (R72). -/
theorem runTicks_req_end (ls : List LineLevel) {s : State} (hp : s.phase = .req) (hn : ls ≠ [])
    (hc : s.cnt.toNat + ls.length = s.par.tReq.toNat) :
    runTicks ls s = .next { s with lineOe := false, lineOut := .low, cnt := 0, phase := .presL } := by
  induction ls generalizing s with
  | nil => exact absurd rfl hn
  | cons l ls ih =>
    have hb := s.par.tReq.isLt
    rw [List.length_cons] at hc
    have h1 : (s.cnt + 1).toNat = s.cnt.toNat + 1 := toNat_succ (by omega)
    cases ls with
    | nil =>
      exact runTicks_cons (tick_req_over hp (BitVec.eq_of_toNat_eq (by rw [h1]; simpa using hc)))
    | cons l' ls =>
      have : s.cnt + 1 ≠ s.par.tReq := fun h => by
        rw [← h, h1, List.length_cons] at hc; omega
      rw [runTicks_cons (tick_req_on hp this)]
      exact ih (s := { s with cnt := s.cnt + 1 }) hp (by simp)
        (show (s.cnt + 1).toNat + _ = s.par.tReq.toNat by rw [h1]; omega)

/-- READ's two pulses, whatever the samples: the line is released and the presence low hold begins (R71, R72). -/
theorem runTicks_pulse (pulse : List LineLevel) {s : State} (hv : s.par.InRange)
    (hl : pulse.length = s.par.tWake.toNat + s.par.tReq.toNat) :
    runTicks pulse (acceptRead s) = .next { acceptRead s with phase := .presL, lineOe := false } := by
  have h1 := hv.1
  have h2 := hv.2.1
  rw [← List.take_append_drop s.par.tWake.toNat pulse]
  have hw := runTicks_wake_end (s := acceptRead s) (pulse.take s.par.tWake.toNat) rfl
    (by intro h; simp [List.take_eq_nil_iff] at h; rcases h with h | h <;> simp [h] at hl h1; omega)
    (by simp; omega)
  rw [runTicks_append hw, runTicks_req_end _ rfl
    (by intro h; have := congrArg List.length h; simp at this; omega) (by simp; omega)]
  rfl

end Sys2Proof.Machine
end

