-- ==== Sys2Proof/Machine/HostProgram.lean ====
section
/-! DEFINITION. A host program (spec/30_encoding.md R55) as the inputs it makes. -/
namespace Sys2Proof.Machine

/-- The offset column of the register map (10_state.md section 4). -/
def Reg.offset : Reg → Nat
  | .cmd => 0x00
  | .status => 0x04
  | .frame0 => 0x08
  | .frame1 => 0x0C
  | .hum => 0x10
  | .temp => 0x14
  | .hold => 0x18
  | .reserved => 0x1C

/-- What a line of a host program does (R55); `command` is a write of CMD in the syntax of R53. -/
inductive HostAction where
  | write (off : Nat) (value : Word)
  | command (i : Instr)
  /-- a read, which the rules say returns `expected` -/
  | read (off : Nat) (expected : Word)
  | reset
deriving DecidableEq, Repr

/-- `@<after> …`: the action happens after tick `after` and before the next (R55). -/
structure HostLine where
  after : Nat
  action : HostAction
deriving DecidableEq, Repr

/-- `LINE <first>..<last> = <level>` (R55). -/
structure LineSpan where
  first : Nat
  last : Nat
  level : LineLevel
deriving DecidableEq, Repr

/-- A host program: its access lines in the order written, and its LINE lines. -/
structure HostProgram where
  lines : List HostLine
  spans : List LineSpan
deriving DecidableEq, Repr

/-- The line's level at a tick: what the program's LINE lines say, else the line environment's free choice (R10). DESIGN
CHOICE (log entry 18): where two LINE lines name different levels for one tick, on which R55 is silent, the first of them
in the program's order counts. -/
def HostProgram.levelAt (p : HostProgram) (t : Nat) : LineLevel :=
  match p.spans.find? (fun sp => decide (sp.first ≤ t ∧ t ≤ sp.last)) with
  | some sp => sp.level
  | none => Config.freeLevel t

/-- The input a line makes on a block whose window is at `base`. -/
def HostAction.event (base : Nat) : HostAction → Event
  | .write off value => .write (base + off) .word value
  | .command i => .write (base + Reg.offset .cmd) .word (encode i)
  | .read off _ => .read (base + off) .word
  | .reset => .reset

/-- The inputs of the lines at `@t`, "in the order written" (R55). -/
def HostProgram.eventsAt (p : HostProgram) (base t : Nat) : List Event :=
  (p.lines.filter (fun l => l.after == t)).map (fun l => l.action.event base)

/-- The inputs from `@t` to `@(t + n)`. -/
def HostProgram.eventsFrom (p : HostProgram) (base : Nat) : Nat → Nat → List Event
  | 0, t => p.eventsAt base t
  | n + 1, t => p.eventsAt base t ++ .tick (p.levelAt (t + 1)) :: p.eventsFrom base n (t + 1)

/-- The tick of the last access line: "A run of a host program … ends after its last line" (R123). DESIGN CHOICE (log
entry 19): a LINE line that reaches past the last access does not extend the run, on which R55 and R123 are silent. -/
def HostProgram.lastTick (p : HostProgram) : Nat := p.lines.foldl (fun m l => max m l.after) 0

/-- The program's inputs, ticks numbered from 1 (R55). -/
def HostProgram.events (p : HostProgram) (base : Nat) : List Event := p.eventsFrom base p.lastTick 0

/-- The words the program's reads return by the rules, in the order the reads are made. -/
def HostProgram.expectedReads (p : HostProgram) : List Word :=
  (List.range (p.lastTick + 1)).flatMap fun t =>
    (p.lines.filter (fun l => l.after == t)).filterMap fun l =>
      match l.action with
      | .read _ v => some v
      | .write _ _ | .command _ | .reset => none

/-- A state with the program's inputs to come. -/
def State.withProgram (s : State) (p : HostProgram) : State := { s with inbox := p.events s.par.base }

end Sys2Proof.Machine
end

