-- ==== Sys2Proof/Tests/Slice0.lean ====
section
/-! SUPPORT. The model's own tests. The expected values are those of spec/95_test_vectors.md and of the encoding diagram
R45, never the model's answers; the theorems named `witness_…` show that the hypotheses of a statement can be met. -/
namespace Sys2Proof.Tests
open Sys2Proof Sys2Proof.Machine

/-! ## WellFormed: an ill-formed term for each check (R53, R54) -/

theorem test_wellFormed_refuses_level : (Asm.measure 2 10).wellFormed = false := by decide
theorem test_wellFormed_refuses_timeout : (Asm.measure 1 65536).wellFormed = false := by decide
theorem test_wellFormed_refuses_low_timeout : (Asm.measureLow 65536).wellFormed = false := by decide
theorem test_wellFormed_refuses_high_timeout : (Asm.measureHigh 65536).wellFormed = false := by decide
theorem test_wellFormed_accepts_bounds : (Asm.measure 1 65535).wellFormed = true := by decide

/-! ## Decoding: words written out from R45's diagram (TIMEOUT, 0000000, LEVEL, 0000, OP) -/

theorem test_decode_nop : decode 0b0000000000000000_0000000_0_0000_0000 = .ok .nop := by decide
theorem test_decode_read : decode 0b0000000000000000_0000000_0_0000_0001 = .ok .read := by decide
/-- V29's and V31's words: MEASURE 1, 10 and MEASURE 0, 10. -/
theorem test_decode_measure :
    decode 0b0000000000001010_0000000_1_0000_0010 = .ok (.measure .high 10) ∧
    decode 0b0000000000001010_0000000_0_0000_0010 = .ok (.measure .low 10) := by decide
/-- V40 to V48: the reserved words. -/
theorem test_decode_rejects :
    [0x3#32, 0xF, 0x10, 0x11, 0x101, 0x10001, 0x80000001, 0x201, 0x202].map decode =
      [.error .reservedOp, .error .reservedOp, .error .reservedBits, .error .reservedBits, .error .readOperands,
        .error .readOperands, .error .readOperands, .error .reservedBits, .error .reservedBits] := by decide
theorem test_encode : encode (.measure .high 65535) = 0xFFFF0102 ∧ encode (.measure .low 5) = 0x00050002 := by decide

/-! ## Small states -/

/-- READ right after its acceptance from reset, in WAKE. -/
def reading : State := acceptRead State.reset
/-- A READ whose line has been released, before its first sample. -/
def released : State := { acceptRead State.reset with phase := .presL, lineOe := false }
/-- A READ in the high hold of bit `k`, of count `n`, with the bits `f` decoded so far. -/
def inBit (k : BitVec 6) (n : TickCount) (f : BitVec 40) : State :=
  { released with phase := .bitH, cnt := n, bitcnt := k, shreg := f }
/-- MEASURE 1, 10 with `n` samples counted. -/
def measuring (n : TickCount) : State := { acceptMeasure .high 10 State.reset with cnt := n }
/-- A block held in reset. -/
def held : State := { State.reset with resetHeld := true }

/-- Whether an outcome is a next state with a property. -/
def nextIs (p : State → Bool) : Host.Outcome State Fault Refusal → Bool
  | .next s => p s
  | .fault _ => false
  | .refused _ => false

theorem nextIs_exists {p : State → Bool} {o : Host.Outcome State Fault Refusal} (h : nextIs p o = true) :
    ∃ u, o = .next u ∧ p u = true := by
  cases o with
  | next u => exact ⟨u, rfl, h⟩
  | fault f => simp [nextIs] at h
  | refused r => simp [nextIs] at h

/-! ## One step -/

/-- V40, V50: a reserved word sets CMDERR, and NOP clears it. -/
theorem test_nop :
    nextIs (fun s => statusWord s == 0x00000010) (commandWrite 0x00000003 State.reset) = true ∧
    nextIs (fun s => statusWord s == 0) (exec .nop { State.reset with cmderr := true }) = true := by decide
/-- P3's busy READ: NOP during a READ clears CMDERR and the READ stays in WAKE. -/
theorem test_nop_busy :
    nextIs (fun s => statusWord s == 0x00000101) (exec .nop { reading with cmderr := true }) = true := by decide
/-- V39, P2: STATUS after READ is accepted; the line is driven low. -/
theorem test_read :
    nextIs (fun s => statusWord s == 0x00000101 && lineDrive s == some .low) (exec .read State.reset) = true := by
  decide
/-- P3: a READ written while one runs only sets CMDERR. -/
theorem test_read_busy :
    nextIs (fun s => decide (s = { reading with cmderr := true })) (exec .read reading) = true := by decide
/-- V49: STATUS after MEASURE 1, 65535 is accepted. -/
theorem test_measure :
    nextIs (fun s => statusWord s == 0x00000701 && s.mto == 65535) (commandWrite 0xFFFF0102 State.reset) = true := by
  decide
/-- V29: seven high samples, then a low one. -/
theorem test_measure_ends :
    nextIs (fun s => statusWord s == 0x00007002 && s.hold == 7) (tick .low (measuring 7)) = true := by decide
/-- V30: the eleventh high sample of MEASURE 1, 10. -/
theorem test_measure_timeout :
    nextIs (fun s => statusWord s == 0x00007006 && s.hold == 0) (tick .high (measuring 10)) = true := by decide
/-- P2's end: the frame 02 8C 01 5F EE, its last bit a 0 of 26 samples. -/
theorem test_read_good_frame :
    nextIs (fun s => statusWord s == 0x00286002 && s.frame0 == 0x028C015F && s.frame1 == 0xEE && s.hum == 652 &&
      s.temp == 351) (tick .low (inBit 39 26 (0x028C015FEE#40 >>> 1))) = true := by decide
/-- V21's end: the frame 02 8C 01 5F EF, its last bit a 1 of 70 samples. -/
theorem test_read_bad_frame :
    nextIs (fun s => statusWord s == 0x0028600A && s.frame0 == 0) (tick .low (inBit 39 70 (0x028C015FEF#40 >>> 1)))
      = true := by decide
/-- P4: the 76th high sample of bit 12. -/
theorem test_read_timeout :
    nextIs (fun s => statusWord s == 0x000C6006) (tick .high (inBit 12 75 0)) = true := by decide
/-- Section 1.1: counts 35 and 40 decode to 0, count 41 to 1. -/
theorem test_threshold :
    [35#16, 40, 41].map (bitOfCount Params.default) = [false, false, true] := by decide
/-- V23, V24, V26: TEMP −101, −25856, −32767. -/
theorem test_temperature :
    temperatureWord 0x80 0x65 = 0xFFFFFF9B ∧ temperatureWord 0xE5 0x00 = 0xFFFF9B00 ∧
    temperatureWord 0xFF 0xFF = 0xFFFF8001 := by decide
/-- V51 to V55: reads of CMD and offset 0x1C return 0, a write of STATUS is ignored. -/
theorem test_register_access :
    nextIs (fun s => s.hostReads == [0]) (perform (.read 0x00 .word) reading) = true ∧
    nextIs (fun s => s.hostReads == [0]) (perform (.read 0x1C .word) reading) = true ∧
    nextIs (fun s => statusWord s == 0) (perform (.write 0x04 .word 0xFFFFFFFF) State.reset) = true := by decide
/-- The host floats of sections 1.2, 1.3 and 3 (V25, V26). -/
theorem test_host_floats :
    humidityFloat 652 = 0x42826666 ∧ temperatureFloat 0x028C015F = 0x420C6666 ∧
    temperatureFloat 0x01F48065 = 0xC121999A ∧ temperatureFloat 0x028CE500 = 0xC521999A ∧
    temperatureFloat 0x00008000 = 0x80000000 ∧ humidityFloat 65535 = 0x45CCCC00 ∧
    temperatureFloat 0xFFFFFFFF = 0xC54CCB33 := by decide
/-- P1's first lines, as inputs (R55). -/
theorem test_host_program :
    let p : HostProgram :=
      { lines := [⟨0, .command (.measure .high 10)⟩, ⟨0, .read 0x04 0x701⟩, ⟨2, .read 0x04 0x701⟩],
        spans := [⟨1, 7, .high⟩] }
    p.events 0 = [.write 0 .word 0x000A0102, .read 4 .word, .tick .high, .tick .high, .read 4 .word] ∧
    p.expectedReads = [0x701, 0x701] := by decide

/-! ## Witnesses: states and operands that meet the hypotheses of the statements -/

/-! ### States that meet the invariant, other than the reset state -/

/-- MEASURE 1, 10 with its count at the timeout. -/
theorem inv_measuring : Inv (measuring 10) := by
  constructor <;> first
    | decide
    | simp [measuring, acceptMeasure, State.reset, State.resetWith, holdParams]
theorem inv_reading : Inv reading := by
  constructor <;> first
    | decide
    | simp [reading, acceptRead, State.reset, State.resetWith, holdParams]
theorem inv_released : Inv released := by
  constructor <;> first
    | decide
    | simp [released, acceptRead, State.reset, State.resetWith, holdParams]
/-- A READ at a bit's high hold at its timeout, no bit decoded. -/
theorem inv_inBit : Inv (inBit 0 75 0) := by
  constructor <;> first
    | decide
    | simp [inBit, released, acceptRead, State.reset, State.resetWith, holdParams, Params.default]
/-- P2's end state. -/
def delivered : State :=
  { State.reset with
    shreg := 0x028C015FEE, bitcnt := 40, done := true, endph := .bitH, frame0 := 0x028C015F, frame1 := 0xEE
    hum := 652, temp := 351 }
theorem inv_delivered : Inv delivered := by
  constructor <;> first
    | decide
    | simp [delivered, State.reset, State.resetWith, holdParams]
/-- WAKE's last tick is the next. -/
def wakeEnding : State := { reading with cnt := 2999 }
theorem inv_wakeEnding : Inv wakeEnding := by
  constructor <;> first
    | decide
    | simp [wakeEnding, reading, acceptRead, State.reset, State.resetWith, holdParams]
/-- REQ with `n` ticks counted. -/
def requesting (n : TickCount) : State := { reading with phase := .req, lineOut := .high, cnt := n }
theorem inv_requesting : Inv (requesting 24) := by
  constructor <;> first
    | decide
    | simp [requesting, reading, acceptRead, State.reset, State.resetWith, holdParams]
theorem inv_held : Inv held := by
  constructor <;> first
    | decide
    | simp [held, State.reset, State.resetWith, holdParams]
/-- A state with inputs still to come meets the invariant with the state without them. -/
theorem inv_inbox {s : State} (h : Inv s) (hh : s.resetHeld = false) (es : List Event) :
    Inv { s with inbox := es } := by
  constructor
  case held_in_reset => intro hx; exact absurd hx (by simp [hh])
  all_goals first
    | exact h.params | exact h.phase_named | exact h.endph_hold | exact h.result_named | exact h.result_needs_done
    | exact h.busy_not_done | exact h.cnt_idle | exact h.cnt_wake | exact h.cnt_req | exact h.cnt_hold
    | exact h.cnt_started | exact h.line_enabled | exact h.line_level | exact h.bitcnt_range | exact h.bitcnt_before
    | exact h.bitcnt_bits | exact h.shreg_fill | exact h.ended_ok | exact h.ended_timeout | exact h.ended_checksum
    | exact h.frame_checked | exact h.hum_of_frame | exact h.temp_of_frame | exact h.hold_range

/-! ### The command word -/

theorem witness_DecodeInvertsEncode :
    (Instr.measure .high 65535).wellFormed = true ∧ decode 0xFFFF0102 = .ok (.measure .high 65535) := by decide
theorem witness_WrittenCommandsHaveTheirWords :
    ((1 : Nat) ≤ 1 ∧ (65535 : Nat) ≤ 65535) ∧ ¬ ((1 : Nat) ≤ 1 ∧ (65536 : Nat) ≤ 65535) ∧
    ¬ ((2 : Nat) ≤ 1 ∧ (65535 : Nat) ≤ 65535) := by decide
/-- A word of each class of R50, each at the edge of its class. -/
theorem witness_ReservedWordsOnlySetCommandError :
    [0x3#32, 0x10, 0x200, 0x8000, 0x100, 0x80000000, 0x101, 0x80000001].all
      (fun v => match decode v with | .ok _ => false | .error _ => true) = true := by decide
theorem witness_DecodingFollowsTheOpcodeTable : decode 0x00000102 = .ok (.measure .high 0) := by decide
theorem witness_NopClearsTheCommandError :
    ((0x100#32).extractLsb' 0 4 = 0 ∧ (0x100#32) ≠ 0) ∧
    statusWord { State.reset with cmderr := true } = 0x00000010 := by decide
theorem witness_ReadIsAcceptedInIdle : State.reset.phase = .idle := by decide
theorem witness_MeasureIsAcceptedInIdle : ({ State.reset with endph := .bitH, done := true } : State).phase = .idle := by
  decide
/-- A reserved word, a busy READ, and a word that is neither. -/
theorem witness_RejectionsAndTheirCauses :
    decode 0x00000003 = .error .reservedOp ∧
    (reading.phase ≠ .idle ∧ decode 0x00000001 = .ok .read ∧ Instr.read ≠ .nop) ∧
    (decode 0x00000001 = .ok .read ∧ State.reset.phase = .idle) ∧
    decode 0x00000000 = .ok .nop := by decide
theorem witness_CommandFrame :
    exec (.measure .low 5) State.reset = .next (acceptMeasure .low 5 State.reset) ∧
    exec .nop reading = .next { reading with cmderr := false } ∧
    exec .read (measuring 3) = .next { measuring 3 with cmderr := true } ∧
    exec .read State.reset = .next reading ∧ Reg.hold ≠ .status := ⟨rfl, rfl, rfl, rfl, by decide⟩

/-! ### The register window -/

theorem witness_RegisterReadsReturnTheirValues :
    (inBit 39 26 5).par.base % 32 = 0 ∧ (inBit 39 26 5).resetHeld = false ∧ statusFault (inBit 39 26 5) = none := by
  decide
theorem witness_ReadsAreIdempotent :
    perform (.read 0x04 .word) reading = .next { reading with hostReads := [0x101] } ∧
    performAll ([(0x18, AccessWidth.word), (0x1C, .word)].map fun x => Event.read x.1 x.2)
      { reading with hostReads := [0x101] } = .next { reading with hostReads := [0, 0, 0x101] } := ⟨rfl, rfl⟩
theorem witness_OnlyCommandWritesHaveAnEffect :
    State.reset.par.base % 32 = 0 ∧ State.reset.resetHeld = false ∧ State.reset.phase = .idle := by decide
theorem witness_UndefinedAccessesAreRefused :
    reading.par.base % 32 = 0 ∧ definedAccess reading.par.base 0x1C .word ∧
    ¬ definedAccess reading.par.base 0x20 .word ∧ ¬ definedAccess reading.par.base 0x02 .word ∧
    ¬ definedAccess reading.par.base 0x04 .half := by unfold definedAccess; decide
theorem witness_ReservedBitsReadZero : Inv (measuring 10) := inv_measuring
theorem witness_StatusShowsTheAcceptedRead :
    State.reset.par.InRange ∧ State.reset.phase = .idle ∧ exec .read State.reset = .next reading :=
  ⟨by decide, by decide, rfl⟩

/-! ### The sequencer -/

/-- A state in a given phase. -/
def inPhase (p : Phase) : State := { released with phase := p }

theorem witness_TickDispatchesOnThePhase :
    ([Phase.idle, .wake, .req, .presL, .presH, .bitL, .bitH, .meas].map fun p => (inPhase p).phase) =
      [.idle, .wake, .req, .presL, .presH, .bitL, .bitH, .meas] := by decide
/-- Ticks in WAKE, at a MEASURE's end, and between two bits. -/
theorem witness_TickFrame :
    tick .low reading = .next { reading with cnt := 1 } ∧ reading.phase ≠ .bitH ∧ reading.phase ≠ .meas ∧
    tick .low (measuring 10) = .next (measureEnd 10 (measuring 10)) ∧
    tick .low (inBit 38 40 0) = .next (decodeBit 40 (inBit 38 40 0)) ∧
    (decodeBit 40 (inBit 38 40 0)).phase ≠ .idle := ⟨rfl, by decide, by decide, rfl, rfl, by decide⟩
/-- The five hold phases; a MEASURE with one sample to count before its timeout, and one at it. -/
theorem witness_HoldStepFollowsItsPseudocode :
    (inPhase .presL).phase = .presL ∧ (inPhase .presH).phase = .presH ∧ (inPhase .bitL).phase = .bitL ∧
    (inPhase .bitH).phase = .bitH ∧ (measuring 9).phase = .meas ∧
    (holdParams (measuring 9) = some (.high, 10) ∧ ¬ (measuring 9).cnt.toNat + 1 > (10#16).toNat) ∧
    (holdParams (measuring 10) = some (.high, 10) ∧ (measuring 10).cnt.toNat + 1 > (10#16).toNat) := by decide
/-- A hold below its timeout, with one more sample to count, and one at it. -/
theorem witness_HoldsAreCountedUpToTheirTimeout :
    (holdParams (measuring 9) = some (.high, 10) ∧ (measuring 9).cnt.toNat + 1 ≤ (10#16).toNat) ∧
    (holdParams (measuring 10) = some (.high, 10) ∧ (measuring 10).cnt.toNat + 0 ≤ (10#16).toNat ∧
      LineLevel.low ≠ .high) := by decide
theorem witness_HoldStepMeetsTheRecursion :
    (holdParams (inPhase .presL) = some (.low, 85) ∧ LineLevel.high ≠ .low) ∧
    (holdParams (inPhase .presH) = some (.high, 85) ∧ LineLevel.low ≠ .high) ∧
    (holdParams (inPhase .bitL) = some (.low, 56) ∧ LineLevel.high ≠ .low) ∧
    (holdParams (inBit 38 40 0) = some (.high, 75) ∧ (takeBit 40 (inBit 38 40 0)).bitcnt ≠ 40) ∧
    (holdParams (inBit 39 41 0) = some (.high, 75) ∧ (takeBit 41 (inBit 39 41 0)).bitcnt = 40) ∧
    (holdParams (measuring 10) = some (.high, 10) ∧ LineLevel.low ≠ .high) := by decide
/-- The ends of the four kinds of hold, the first at count 0, with every timeout 1, the least that R5 allows. -/
theorem witness_NextHoldsStartWithCountOne :
    let p := { Params.default with toPresL := 1, toPresH := 1, toBitL := 1, toBitH := 1, thresh := 0 }
    p.InRange ∧ LineLevel.high ≠ .low ∧
    holdParams { inPhase .presL with par := p } = some (.low, 1) ∧
    holdParams { inPhase .presH with par := p } = some (.high, 1) ∧
    holdParams { inPhase .bitL with par := p } = some (.low, 1) ∧
    holdParams { inBit 38 1 0 with par := p } = some (.high, 1) ∧
    (takeBit 1 { inBit 38 1 0 with par := p }).bitcnt ≠ 40 := by decide
theorem witness_MeasureEndsWithItsCount : (measuring 10).phase = .meas ∧ LineLevel.low ≠ (measuring 10).mlevel := by
  decide
/-- Timeout 0, and the largest count, `n = timeout`. -/
theorem witness_MeasureTiming :
    State.reset.phase = .idle ∧ State.reset.lineOe = false ∧ State.reset.lineOut = .low ∧ LineLevel.high ≠ .low ∧
    exec (.measure .low 0) State.reset = .next (acceptMeasure .low 0 State.reset) ∧ 0 ≤ (0#16).toNat ∧
    exec (.measure .low 65535) State.reset = .next (acceptMeasure .low 65535 State.reset) ∧
    65535 ≤ (65535#16).toNat ∧ (0#16).toNat + 1 ≤ [LineLevel.low].length :=
  ⟨rfl, rfl, rfl, by decide, rfl, by decide, rfl, by decide, by decide⟩
/-- After P2's READ. -/
theorem witness_MeasureDoesNotDriveTheLine :
    Inv delivered ∧ delivered.phase = .idle ∧
    exec (.measure .low 5) delivered = .next (acceptMeasure .low 5 delivered) ∧
    runTicks [.low] (acceptMeasure .low 5 delivered) = .next { acceptMeasure .low 5 delivered with cnt := 1 } :=
  ⟨inv_delivered, rfl, rfl, rfl⟩
theorem witness_MeasureDependsOnTheLineAlone :
    exec (.measure .low 5) State.reset = .next (acceptMeasure .low 5 State.reset) ∧
    exec (.measure .low 5) { State.reset with bitcnt := 40, hold := 9 } =
      .next (acceptMeasure .low 5 { State.reset with bitcnt := 40, hold := 9 }) ∧
    runTicks [.high] (acceptMeasure .low 5 State.reset) =
      .next (measureEnd 0 (acceptMeasure .low 5 State.reset)) ∧
    runTicks [.high] (acceptMeasure .low 5 { State.reset with bitcnt := 40, hold := 9 }) =
      .next (measureEnd 0 (acceptMeasure .low 5 { State.reset with bitcnt := 40, hold := 9 })) ∧
    (measureEnd 0 (acceptMeasure .low 5 State.reset)).done = true ∧
    (measureEnd 0 (acceptMeasure .low 5 State.reset)).result = .ok := ⟨rfl, rfl, rfl, rfl, rfl, rfl⟩
/-- An end, a hold that begins, and a tick that stays in its phase. -/
theorem witness_CounterIsMonotonicAndNeverWraps :
    (Inv (measuring 10) ∧ tick .low (measuring 10) = .next (measureEnd 10 (measuring 10)) ∧
      (measureEnd 10 (measuring 10)).phase = .idle) ∧
    (Inv (inBit 0 75 0) ∧ tick .low (inBit 0 75 0) = .next (decodeBit 75 (inBit 0 75 0)) ∧
      holdParams (decodeBit 75 (inBit 0 75 0)) = some (.low, 56)) ∧
    (Inv reading ∧ tick .low reading = .next { reading with cnt := 1 } ∧ reading.phase ≠ .idle) :=
  ⟨⟨inv_measuring, rfl, rfl⟩, ⟨inv_inBit, rfl, rfl⟩, ⟨inv_reading, rfl, by decide⟩⟩

/-! ### The frame decoder -/

theorem witness_WakeTickFollowsItsPseudocode :
    (reading.phase = .wake ∧ Inv reading ∧ reading.cnt + 1 ≠ reading.par.tWake) ∧
    (wakeEnding.phase = .wake ∧ Inv wakeEnding ∧ wakeEnding.cnt + 1 = wakeEnding.par.tWake) :=
  ⟨⟨rfl, inv_reading, by decide⟩, ⟨rfl, inv_wakeEnding, by decide⟩⟩
theorem witness_ReqTickFollowsItsPseudocode :
    (requesting 0).phase = .req ∧ Inv (requesting 24) ∧ (requesting 0).cnt + 1 ≠ (requesting 0).par.tReq ∧
    (requesting 24).cnt + 1 = (requesting 24).par.tReq := ⟨rfl, inv_requesting, by decide, by decide⟩
/-- The last tick before WAKE's end, and WAKE's end. -/
theorem witness_WakeDrivesTheLineLow :
    State.reset.par.InRange ∧ exec .read State.reset = .next reading ∧
    (List.replicate 2999 LineLevel.high).length < State.reset.par.tWake.toNat ∧
    (List.replicate 3000 LineLevel.high).length = State.reset.par.tWake.toNat :=
  ⟨by decide, rfl, by rw [List.length_replicate]; decide, by rw [List.length_replicate]; decide⟩
/-- REQ's first and last tick, and the release. -/
theorem witness_RequestIsHighAndThenReleased :
    State.reset.par.InRange ∧ exec .read State.reset = .next reading ∧
    State.reset.par.tWake.toNat ≤ (List.replicate 3000 LineLevel.low).length ∧
    (List.replicate 3024 LineLevel.low).length < State.reset.par.tWake.toNat + State.reset.par.tReq.toNat ∧
    (List.replicate 3025 LineLevel.low).length + 1 = firstSampleTick State.reset.par :=
  ⟨by decide, rfl, by rw [List.length_replicate]; decide, by rw [List.length_replicate]; decide,
    by rw [List.length_replicate]; decide⟩
/-- The last sample that is counted, the one that times out, and the counts at the threshold and above it, for a bit in
mid-frame and the last one. -/
theorem witness_BitHighHoldsDecodeByTheThreshold :
    (inBit 38 74 0).par.InRange ∧ (inBit 38 74 0).phase = .bitH ∧
    (inBit 38 74 0).cnt.toNat < (inBit 38 74 0).par.toBitH.toNat ∧
    (inBit 38 75 0).cnt.toNat = (inBit 38 75 0).par.toBitH.toNat ∧
    ((0 : Nat) = if (inBit 38 40 1).par.thresh.toNat < (inBit 38 40 1).cnt.toNat then 1 else 0) ∧
    (2#40).toNat = (2 * (inBit 38 40 1).shreg.toNat + 0) % 2 ^ 40 ∧ (inBit 38 40 1).bitcnt.toNat ≠ 39 ∧
    ((1 : Nat) = if (inBit 39 41 1).par.thresh.toNat < (inBit 39 41 1).cnt.toNat then 1 else 0) ∧
    (3#40).toNat = (2 * (inBit 39 41 1).shreg.toNat + 1) % 2 ^ 40 ∧ (inBit 39 41 1).bitcnt.toNat = 39 := by decide
/-- A block whose threshold is its timeout, at the end of the longest high hold. -/
theorem witness_OnesNeedTheThresholdBelowTheTimeout :
    let s := { inBit 38 75 0 with par := { Params.default with thresh := 75 } }
    s.phase = .bitH ∧ s.par.toBitH.toNat ≤ s.par.thresh.toNat ∧ s.cnt.toNat ≤ s.par.toBitH.toNat ∧
    tick .low s = .next (decodeBit 75 s) ∧ 40 < Params.default.toBitH.toNat :=
  ⟨rfl, by decide, by decide, rfl, by decide⟩
theorem witness_BitsArePackedMostSignificantFirst :
    (List.replicate 40 true).length = 40 ∧ ∃ s : State, s.shreg = (List.replicate 40 true).foldl shiftIn 0 :=
  ⟨by decide, { State.reset with shreg := (List.replicate 40 true).foldl shiftIn 0 }, rfl⟩
/-- The frames of V20 and V21 at their last bit, one with a right checksum and one without. -/
theorem witness_ChecksumDecidesTheFrame :
    ((inBit 39 26 (0x028C015FEE#40 >>> 1)).phase = .bitH ∧ (inBit 39 26 (0x028C015FEE#40 >>> 1)).bitcnt = 39 ∧
      shiftIn (0x028C015FEE#40 >>> 1) false = 0x028C015FEE#40 ∧ 0xEE = (0x02 + 0x8C + 0x01 + 0x5F) % 256) ∧
    (shiftIn (0x028C015FEF#40 >>> 1) true = 0x028C015FEF#40 ∧ 0xEF ≠ (0x02 + 0x8C + 0x01 + 0x5F) % 256) := by decide
/-- V25, the negative zero. -/
theorem witness_ConversionsAreExact :
    ({ State.reset with shreg := 0x0000800080 } : State).shreg = 0x00#8 ++ 0x00#8 ++ 0x80#8 ++ 0x00#8 ++ 0x80#8 := by
  decide

/-- P2's waveform of a frame: bits of 50 low samples and 26 or 70 high ones. -/
def waveform (f : BitVec 40) : List BitHold :=
  (List.range 40).map fun k => ⟨50, if f.getMsbD k then 70 else 26⟩

theorem waveform_carries (f : BitVec 40) : AnswerCarries Params.default 80 80 (waveform f) f := by
  refine ⟨by decide, by decide, by decide, by simp [waveform], fun k hk => ?_⟩
  refine ⟨⟨50, if f.getMsbD k then 70 else 26⟩, ?_, ?_⟩
  · simp [waveform, hk]
  · cases f.getMsbD k <;> simp [BitHold.Carries, Params.default]

theorem witness_GoodFramesAreDelivered :
    State.reset.par.InRange ∧ State.reset.phase = .idle ∧ exec .read State.reset = .next reading ∧
    (List.replicate 3025 LineLevel.high).length = State.reset.par.tWake.toNat + State.reset.par.tReq.toNat ∧
    AnswerCarries State.reset.par 80 80 (waveform 0x028C015FEE) 0x028C015FEE ∧
    (frameByte4 0x028C015FEE).toNat =
      ((frameByte0 0x028C015FEE).toNat + (frameByte1 0x028C015FEE).toNat + (frameByte2 0x028C015FEE).toNat +
        (frameByte3 0x028C015FEE).toNat) % 256 :=
  ⟨by decide, rfl, rfl, by rw [List.length_replicate]; decide, waveform_carries _, by decide⟩
/-- V22: byte 4's bit 7. -/
theorem witness_OneFlippedChecksumBitIsCaught :
    State.reset.par.InRange ∧ State.reset.phase = .idle ∧ exec .read State.reset = .next reading ∧
    (List.replicate 3025 LineLevel.high).length = State.reset.par.tWake.toNat + State.reset.par.tReq.toNat ∧
    frameOk 0x028C015FEE = true ∧ (7 : Nat) < 8 ∧
    AnswerCarries State.reset.par 80 80 (waveform (0x028C015FEE ^^^ BitVec.ofNat 40 (2 ^ 7)))
      (0x028C015FEE ^^^ BitVec.ofNat 40 (2 ^ 7)) :=
  ⟨by decide, rfl, rfl, by rw [List.length_replicate]; decide, by decide, by decide, waveform_carries _⟩
/-- A run of the longest length. -/
theorem witness_EveryReadEndsWithinItsBounds :
    State.reset.par.InRange ∧ State.reset.phase = .idle ∧ exec .read State.reset = .next reading ∧
    (∃ u, runTicks (List.replicate 8436 .low) reading = .next u) ∧
    longestRead State.reset.par ≤ (List.replicate 8436 LineLevel.low).length :=
  ⟨by decide, rfl, rfl, runTicks_next _ (by decide) rfl, by rw [List.length_replicate]; decide⟩
/-- V12, the earliest TIMEOUT: the presence holds of 0 and 1 samples, then the line low. -/
theorem witness_EveryReadEndsWithinItsBounds_timeout :
    ∃ u, runTicks (List.replicate 3025 .high ++ (.high :: List.replicate 57 .low)) reading = .next u ∧
      u.phase = .idle ∧ u.result = .timeout := by
  have h := runTicks_pulse (s := State.reset) (List.replicate 3025 .high) (by decide)
    (by rw [List.length_replicate]; decide)
  have : nextIs (fun u => decide (u.phase = .idle ∧ u.result = .timeout))
      (runTicks (.high :: List.replicate 57 .low) released) = true := by decide
  obtain ⟨u, hu, hp⟩ := nextIs_exists this
  exact ⟨u, (runTicks_append h).trans hu, of_decide_eq_true hp⟩
/-- V13, the earliest end with OK: 40 bits of one low and one high sample. -/
theorem witness_EveryReadEndsWithinItsBounds_ok :
    ∃ u, runTicks (List.replicate 3025 .high ++ (.high :: (List.replicate 40 [LineLevel.low, .high]).flatten ++ [.low]))
        reading = .next u ∧ u.phase = .idle ∧ u.result ≠ .timeout := by
  have h := runTicks_pulse (s := State.reset) (List.replicate 3025 .high) (by decide)
    (by rw [List.length_replicate]; decide)
  have : nextIs (fun u => decide (u.phase = .idle ∧ u.result ≠ .timeout))
      (runTicks (.high :: (List.replicate 40 [LineLevel.low, .high]).flatten ++ [.low]) released) = true := by
    decide +kernel
  obtain ⟨u, hu, hp⟩ := nextIs_exists this
  exact ⟨u, (runTicks_append h).trans hu, of_decide_eq_true hp⟩
theorem witness_HostFloatsAreCorrectlyRounded : (65535#16) ≠ 0 := by decide

/-! ### Ends, flags, reset, invariants -/

theorem witness_EveryEndLeavesTheIdleState :
    (measuring 10).par.InRange ∧ (measuring 10).phase ≠ .idle ∧
    tick .high (measuring 10) = .next (finish .timeout (measuring 10)) ∧
    (finish .timeout (measuring 10)).phase = .idle := ⟨by decide, by decide, rfl, rfl⟩
theorem witness_TimeoutsAreRaisedByHoldsOnly :
    (Inv (measuring 10) ∧ tick .high (measuring 10) = .next (finish .timeout (measuring 10)) ∧
      (measuring 10).done = false ∧ (finish .timeout (measuring 10)).done = true ∧
      (finish .timeout (measuring 10)).result = .timeout) ∧
    (Inv (inBit 0 75 0) ∧ holdParams (inBit 0 75 0) = some (.high, 75) ∧ (inBit 0 75 0).cnt = 75) :=
  ⟨⟨inv_measuring, rfl, rfl, rfl, rfl⟩, ⟨inv_inBit, rfl, rfl⟩⟩
/-- One input of each kind, each performed with a next state. -/
theorem witness_FlagsAreWrittenOnlyAsListed :
    (measuring 10).par.InRange ∧ (measuring 10).resetHeld = false ∧
    ([.reset, .assertReset, .releaseReset, .read 0x1C .word, .tick .high, .tick .low, .write 0x04 .word 1,
      .write 0x00 .word 3, .write 0x00 .word 0, .write 0x00 .word 1] : List Event).all
      (fun e => nextIs (fun _ => true) (perform e (measuring 10))) = true ∧
    nextIs (fun _ => true) (perform (.write 0x00 .word 1) State.reset) = true := by decide
theorem witness_HeldResetIgnoresEverything :
    definedAccess reading.par.base 0x1C .word ∧ reading.par.base % 32 = 0 := by unfold definedAccess; decide
theorem witness_TheInvariantHoldsAtReset :
    ({ Params.default with tWake := 65535, tReq := 1, thresh := 74, base := 0x20 } : Params).Valid := by decide
/-- A busy READ that takes a tick, and a block held in reset that ignores a write. -/
theorem witness_EveryStepKeepsTheInvariant :
    (Inv { inBit 0 75 0 with inbox := [.tick .low] } ∧
      step { inBit 0 75 0 with inbox := [.tick .low] } =
        .next { decodeBit 75 (inBit 0 75 0) with ticks := 1 }) ∧
    Inv held := ⟨⟨inv_inbox inv_inBit rfl _, rfl⟩, inv_held⟩
/-- An access past the window's end, the next input of a state that meets the invariant. -/
theorem witness_TheMachineNeverFaults :
    Inv { reading with inbox := [.read 0x20 .word] } ∧
    step { reading with inbox := [.read 0x20 .word] } = .refused .outsideWindow :=
  ⟨inv_inbox inv_reading rfl _, rfl⟩
/-- Steps that end in WAKE, in REQ and in neither. -/
theorem witness_LineIsDrivenOnlyInWakeAndRequest :
    (Inv { reading with inbox := [.tick .low] } ∧
      step { reading with inbox := [.tick .low] } = .next { reading with cnt := 1, ticks := 1 }) ∧
    (Inv { wakeEnding with inbox := [.tick .low] } ∧
      step { wakeEnding with inbox := [.tick .low] } =
        .next { reading with phase := .req, lineOut := .high, ticks := 1 }) ∧
    (Inv { measuring 10 with inbox := [.tick .low] } ∧
      step { measuring 10 with inbox := [.tick .low] } = .next { measureEnd 10 (measuring 10) with ticks := 1 }) :=
  ⟨⟨inv_inbox inv_reading rfl _, rfl⟩, ⟨inv_inbox inv_wakeEnding rfl _, rfl⟩, ⟨inv_inbox inv_measuring rfl _, rfl⟩⟩
theorem witness_HostAccessesDoNotDisturbAnOperation :
    reading.phase ≠ .idle ∧ perform (.write 0x00 .word 1) reading = .next { reading with cmderr := true } ∧
    perform (.read 0x04 .word) reading = .next { reading with hostReads := [0x101] } ∧
    tick .low reading = .next { reading with cnt := 1 } := ⟨by decide, rfl, rfl, rfl⟩
/-- A bit that times out, with two contents of `shreg`. -/
theorem witness_UnpublishedFramesLeaveNoTrace :
    tick .high (inBit 12 75 0) = .next (finish .timeout (inBit 12 75 0)) ∧
    tick .high { inBit 12 75 0 with shreg := 0x123 } = .next (finish .timeout { inBit 12 75 0 with shreg := 0x123 }) ∧
    (finish .timeout (inBit 12 75 0)).result ≠ .ok ∧
    (finish .timeout { inBit 12 75 0 with shreg := 0x123 }).result ≠ .ok := ⟨rfl, rfl, by decide, by decide⟩

/-! ### The step -/

theorem witness_StepRunsTheDecodedCommand :
    ({ State.reset with inbox := [.write 0 .word 0x000A0102, .tick .high] } : State).par.base % 32 = 0 ∧
    ({ State.reset with inbox := [.write 0 .word 0x000A0102, .tick .high] } : State).resetHeld = false ∧
    ({ State.reset with inbox := [.write 0 .word 0x000A0102, .tick .high] } : State).inbox =
      .write State.reset.par.base .word 0x000A0102 :: [.tick .high] ∧
    decode 0x000A0102 = .ok (.measure .high 10) ∧ decode 0x00000003 = .error .reservedOp := by decide
theorem witness_FetchedWordsAreRunNext :
    State.reset.par.base % 32 = 0 ∧ (0xFFFF0102 : Nat) < 2 ^ 32 ∧
    decodeTableWord 32 0xFFFF0102 = some (.measure .high 65535) := by decide
theorem witness_IdleTimePassesByTicks :
    reading.inbox = [] ∧ reading.resetHeld = false ∧ reading.phase.isReserved = false := by decide

end Sys2Proof.Tests
end

section
/-! PROOFS. The values of all state after reset (spec/10_state.md R27), and the flags BUSY, DONE, RESULT and CMDERR: what
each operation makes of all four at once, and that every input writes them only as the table of R26 lists. -/
namespace Sys2Proof.Machine

/-- A register reads 0 right after reset (R27). -/
theorem readReg_resetWith (p : Params) (r : Reg) : readReg (State.resetWith p) r = 0 := by
  cases r with
  | status => exact (show statusWord (State.resetWith p) = statusWord State.reset from rfl).trans (by decide)
  | cmd | frame0 | frame1 | hum | temp | hold | reserved => rfl

/-- Settles O48: the fields are `State.resetWith`'s own, and no register reads otherwise. -/
theorem resetValues : Obligations.ResetValues := fun p =>
  ⟨rfl, rfl, rfl, rfl, rfl, rfl, rfl, rfl, rfl, rfl, rfl, rfl, readReg_resetWith p .status, readReg_resetWith p,
    Params.default, rfl⟩

section
variable (s : State)
theorem flags_rejectCommand : flags (rejectCommand s) = (s.busy, s.done, s.result, true) := rfl
theorem flags_clearCommandError : flags (clearCommandError s) = (s.busy, s.done, s.result, false) := rfl
theorem flags_acceptRead : flags (acceptRead s) = (true, false, .ok, false) := rfl
theorem flags_acceptMeasure (l : LineLevel) (n : TickCount) :
    flags (acceptMeasure l n s) = (true, false, .ok, false) := rfl
theorem flags_resetDevice : flags (resetDevice s) = (false, false, .ok, false) := rfl
theorem flags_returnWord (v : Word) : flags (returnWord v s) = flags s := rfl
end

theorem busy_iff {s : State} : s.busy = true ↔ s.phase ≠ .idle := by simp [State.busy]

theorem busy_of_phase {s : State} {p : Phase} (h : s.phase = p) (hp : p ≠ .idle) : s.busy = true :=
  busy_iff.mpr (h ▸ hp)

/-- A hold is measured only while an operation runs (R60). -/
theorem busy_of_holdParams {s : State} {x : LineLevel × TickCount} (h : holdParams s = some x) : s.busy = true := by
  refine busy_iff.mpr fun hp => ?_
  simp [holdParams, hp] at h

/-- The row of R26's table for an operation's end: BUSY falls, DONE rises, RESULT is one of R90's three, and CMDERR
stays. -/
def EndsOperation (s t : State) : Prop :=
  s.busy = true ∧ t.busy = false ∧ t.done = true ∧ t.result ≠ .reserved ∧ t.cmderr = s.cmderr

/-- `finish` from a busy state, `u` being that state with registers other than the flags written. -/
theorem finish_endsOperation {s u : State} {r : Result} (hb : s.busy = true) (hr : r ≠ .reserved)
    (hc : u.cmderr = s.cmderr) : EndsOperation s (finish r u) :=
  ⟨hb, rfl, rfl, hr, hc⟩

/-- Flags whose parts other than BUSY were not written are unchanged between two busy states. -/
theorem flags_eq_of_busy {s t : State} (hs : s.busy = true) (ht : t.busy = true) (hd : t.done = s.done)
    (hr : t.result = s.result) (hc : t.cmderr = s.cmderr) : flags t = flags s := by
  simp only [flags, hs, ht, hd, hr, hc]

/-- The end of a hold ends the operation or starts the next hold, which leaves the flags alone. -/
theorem HoldEnd.flags {s t : State} (h : HoldEnd s t) : EndsOperation s t ∨ Machine.flags t = Machine.flags s := by
  cases h with
  | presence hp | firstBit hp | highHold hp | nextBit hp =>
    exact .inr (flags_eq_of_busy (busy_of_phase hp (by decide)) rfl rfl rfl rfl)
  | frameGood hp | frameBad hp | measured hp =>
    exact .inl (finish_endsOperation (busy_of_phase hp (by decide)) (by decide) rfl)

/-- A tick writes the flags only where it ends an operation (R26). -/
theorem TickEnd.flags {l : LineLevel} {s t : State} (h : TickEnd l s t) :
    EndsOperation s t ∨ Machine.flags t = Machine.flags s := by
  cases h with
  | idle | wakeOn | reqOn | count => exact .inr rfl
  | wakeOver hp | reqOver hp => exact .inr (flags_eq_of_busy (busy_of_phase hp (by decide)) rfl rfl rfl rfl)
  | timeout n hh => exact .inl (finish_endsOperation (busy_of_holdParams hh) (by decide) rfl)
  | holdEnd _ _ _ _ _ he => exact he.flags

/-- The tick's part of R26's table: BUSY falls exactly where the tick ends an operation. -/
theorem flags_tick {l : LineLevel} {s t : State} (hv : s.par.InRange) (h : tick l s = .next t) :
    if s.busy = true ∧ t.busy = false then t.done = true ∧ t.result ≠ .reserved ∧ t.cmderr = s.cmderr
    else flags t = flags s := by
  rcases (tick_spec hv h).flags with ⟨hs, ht, hend⟩ | heq
  · rwa [if_pos ⟨hs, ht⟩]
  · have hbusy : t.busy = s.busy := congrArg Prod.fst heq
    rwa [if_neg (by simp [hbusy])]

/-- The flags after a command's acceptance or rejection, as the table of R26 gives them. -/
theorem flags_exec {i : Instr} {s t : State} (h : exec i s = .next t) :
    flags t = if i = .nop then (s.busy, s.done, s.result, false)
      else if s.busy then (s.busy, s.done, s.result, true) else (true, false, .ok, false) := by
  rcases exec_cases i s with ⟨hi, he⟩ | ⟨hi, hp, he⟩ | ⟨hi, hp, he⟩ | ⟨l, n, hi, hp, he⟩ <;>
    obtain rfl : _ = t := Host.Outcome.next.inj (he.symm.trans h)
  · rw [if_pos hi, flags_clearCommandError]
  · rw [if_neg hi, if_pos (busy_iff.mpr hp), flags_rejectCommand]
  · subst hi; simp [busy_iff, hp, flags_acceptRead]
  · subst hi; simp [busy_iff, hp, flags_acceptMeasure]

theorem flags_commandWrite_of_error {v : Word} {e : Reject} {s t : State} (hd : decode v = .error e)
    (h : commandWrite v s = .next t) : flags t = (s.busy, s.done, s.result, true) := by
  rcases commandWrite_cases v s with ⟨_, he⟩ | ⟨i, hi, _⟩
  · obtain rfl : _ = t := Host.Outcome.next.inj (he.symm.trans h)
    exact flags_rejectCommand s
  · simp [hd] at hi

theorem commandWrite_of_ok {v : Word} {i : Instr} (s : State) (hd : decode v = .ok i) :
    commandWrite v s = exec i s := by
  rcases commandWrite_cases v s with ⟨⟨e, he⟩, _⟩ | ⟨j, hj, hw⟩
  · simp [hd] at he
  · obtain rfl : i = j := by simpa [hd] using hj
    exact hw

/-- CMD is the register at offset 0 and at no other. -/
theorem Reg.ofOffset_eq_cmd {off : Nat} : Reg.ofOffset off = some .cmd ↔ off = 0 := by
  unfold Reg.ofOffset
  split <;> simp_all

/-- A defined access reaches CMD exactly where its address is BASE. -/
theorem accessReg_eq_cmd {base a : Nat} {w : AccessWidth} {r : Reg} (h : accessReg base a w = .ok r) :
    r = .cmd ↔ a = base := by
  unfold accessReg at h
  split_ifs at h with _ _ hlt
  have hoff : Reg.ofOffset (a - base) = some r := by
    cases ho : Reg.ofOffset (a - base) <;> simp_all
  calc r = .cmd ↔ a - base = 0 := by rw [← Reg.ofOffset_eq_cmd, hoff, Option.some.injEq]
    _ ↔ a = base := by omega

/-- A write changes the flags only at BASE, where it is a command's. -/
theorem busWrite_flags_cases {a : Nat} {w : AccessWidth} {v : Word} {s t : State} (hr : s.resetHeld = false)
    (h : busWrite a w v s = .next t) :
    (a ≠ s.par.base ∧ flags t = flags s) ∨ (a = s.par.base ∧ commandWrite v s = .next t) := by
  obtain ⟨r, hacc, ⟨hh, _⟩ | ⟨_, hcmd, hw⟩ | ⟨_, hcmd, rfl⟩⟩ := busWrite_cases h
  · simp [hr] at hh
  · exact .inr ⟨(accessReg_eq_cmd hacc).mp hcmd, hw⟩
  · exact .inl ⟨fun ha => hcmd ((accessReg_eq_cmd hacc).mpr ha), rfl⟩

/-- Settles O47, input by input. -/
theorem flagsAreWrittenOnlyAsListed : Obligations.FlagsAreWrittenOnlyAsListed := by
  intro e s t hv hr h
  refine ⟨?reset, ?keep, ?tick, ?write⟩
  case reset =>
    rintro (rfl | rfl) <;> obtain rfl := Host.Outcome.next.inj h <;> exact flags_resetDevice s
  case keep =>
    rintro (rfl | ⟨a, w, rfl⟩)
    · obtain rfl := Host.Outcome.next.inj h
      rfl
    · obtain ⟨r, _, ⟨_, rfl⟩ | ⟨_, rfl⟩⟩ := busRead_cases h <;> exact flags_returnWord s _
  case tick =>
    rintro l rfl
    have htick : tick l { s with ticks := s.ticks + 1 } = .next t := by
      simpa [perform, tickEvent, hr] using h
    exact flags_tick (s := { s with ticks := s.ticks + 1 }) hv htick
  case write =>
    rintro a w v rfl
    rcases busWrite_flags_cases hr h with ⟨ha, heq⟩ | ⟨ha, hw⟩
    · rwa [if_pos ha]
    rw [if_neg (by simp [ha])]
    cases hd : decode v with
    | error e => exact flags_commandWrite_of_error hd hw
    | ok i =>
      have hex := flags_exec (commandWrite_of_ok s hd ▸ hw)
      cases i <;> simpa using hex

end Sys2Proof.Machine
end

section
/-! PROOFS. Reserved bits read 0 and writes of every register but CMD have no effect (spec/10_state.md R25). -/
namespace Sys2Proof.Machine

/-- The bits above a value's highest possible one are 0. -/
theorem extractLsb'_eq_zero_of_lt {w k : Nat} {x : BitVec w} (h : x.toNat < 2 ^ k) (len : Nat) :
    x.extractLsb' k len = 0 := by
  apply BitVec.eq_of_toNat_eq
  simp [Nat.shiftRight_eq_div_pow, Nat.div_eq_of_lt h]

/-- A field of `w` bits placed at bit `n` of a word has no bit set below it or above it. -/
theorem field_bit_outside {w n i : Nat} (x : BitVec w) (h : i < n ∨ n + w ≤ i) :
    (x.zeroExtend 32 <<< n).getLsbD i = false := by
  rcases h with h | h
  · simp [h]
  · simp [BitVec.getLsbD_of_ge x (i - n) (by omega)]

/-- STATUS has no field at bits 7:5 and 31:22 (R18). -/
theorem statusWord_reserved_bit (s : State) {i : Nat} (h : (5 ≤ i ∧ i < 8) ∨ 22 ≤ i) :
    (statusWord s).getLsbD i = false := by
  have hbusy : ((BitVec.ofBool s.busy).zeroExtend 32).getLsbD i = false := by
    simpa using field_bit_outside (n := 0) (BitVec.ofBool s.busy) (i := i) (by omega)
  simp only [statusWord, BitVec.getLsbD_or, hbusy, Bool.or_false]
  simp (disch := omega) only [field_bit_outside, Bool.or_false]

theorem writeAccess_of_ne_cmd {r : Reg} (hr : r ≠ .cmd) (v : Word) (s : State) : writeAccess r v s = .next s := by
  cases r with
  | cmd => exact absurd rfl hr
  | status | frame0 | frame1 | hum | temp | hold | reserved => simp [writeAccess]

/-- A write of a register that is not CMD changes nothing, reset held or not (R35, R110). -/
theorem perform_write_of_ne_cmd {s : State} {off : Nat} {r : Reg} (hb : s.par.base % 32 = 0) (h4 : off % 4 = 0)
    (ho : Reg.ofOffset off = some r) (hr : r ≠ .cmd) (v : Word) :
    perform (.write (s.par.base + off) .word v) s = .next s := by
  simp [perform, busWrite, accessReg_offset hb h4 ho, writeAccess_of_ne_cmd hr]

/-- Every aligned offset of the window but CMD's names a register that is not CMD. -/
theorem Reg.ofOffset_ne_cmd {off : Nat} (h : off ∈ [0x04, 0x08, 0x0C, 0x10, 0x14, 0x18, 0x1C]) :
    off % 4 = 0 ∧ ∃ r, Reg.ofOffset off = some r ∧ r ≠ .cmd := by
  simp only [List.mem_cons, List.not_mem_nil, or_false] at h
  rcases h with rfl | rfl | rfl | rfl | rfl | rfl | rfl <;> exact ⟨rfl, _, rfl, by decide⟩

/-- Settles O18: STATUS by its layout, FRAME1, HUM and HOLD by the invariant's bounds on their values. -/
theorem reservedBitsReadZero : Obligations.ReservedBitsReadZero := by
  intro s hi
  have hframe1 : s.frame1.toNat < 2 ^ 8 := by rw [hi.frame_checked, BitVec.toNat_setWidth]; omega
  have hhum : s.hum.toNat < 2 ^ 16 := by rw [hi.hum_of_frame, BitVec.toNat_setWidth]; omega
  refine ⟨rfl, rfl, ?_, ?_, extractLsb'_eq_zero_of_lt hframe1 24, extractLsb'_eq_zero_of_lt hhum 16,
    extractLsb'_eq_zero_of_lt hi.hold_range 16, ?_⟩
  · ext i hlt
    simp [readReg, statusWord_reserved_bit s (i := 5 + i) (by omega)]
  · ext i hlt
    simp [readReg, statusWord_reserved_bit s (i := 22 + i) (by omega)]
  · intro off hoff v
    obtain ⟨h4, r, ho, hr⟩ := Reg.ofOffset_ne_cmd hoff
    obtain ⟨⟨_, _, _, _, _, _, _, hbase⟩, _⟩ := hi.params
    exact perform_write_of_ne_cmd hbase h4 ho hr v

end Sys2Proof.Machine
end

section
/-! PROOFS. The host's reads and writes of the register window (spec/20_memory.md R33 to R35): when a read answers and
what it returns, that reads disturb nothing a later read looks at, and that only a write of CMD has an effect. -/
namespace Sys2Proof.Machine

/-- A read of a register answers unless it meets a never-produced code in STATUS; held in reset it returns 0 (R33,
R110). -/
theorem readAccess_eq_next_iff {r : Reg} {s t : State} :
    readAccess r s = .next t ↔
      (s.resetHeld = false → r = .status → statusFault s = none) ∧
        t = returnWord (if s.resetHeld then 0 else readReg s r) s := by
  unfold readAccess
  cases hheld : s.resetHeld with
  | true => simp [eq_comm]
  | false =>
    cases r with
    | status => cases hf : statusFault s <;> simp [eq_comm]
    | cmd | frame0 | frame1 | hum | temp | hold | reserved => simp [eq_comm]

/-- A host read answers exactly where its access reaches a register whose read answers. -/
theorem perform_read_eq_next_iff {a : Nat} {w : AccessWidth} {s t : State} :
    perform (.read a w) s = .next t ↔
      ∃ r, accessReg s.par.base a w = .ok r ∧ (s.resetHeld = false → r = .status → statusFault s = none) ∧
        t = returnWord (if s.resetHeld then 0 else readReg s r) s := by
  simp only [perform, busRead]
  cases hacc : accessReg s.par.base a w with
  | ok r => simp [readAccess_eq_next_iff]
  | error e => simp

/-- A read at an offset of the window returns its register's value (R33). -/
theorem perform_read_offset {s : State} {off : Nat} {r : Reg} (hb : s.par.base % 32 = 0) (h4 : off % 4 = 0)
    (ho : Reg.ofOffset off = some r) (hheld : s.resetHeld = false) (hf : statusFault s = none) :
    perform (.read (s.par.base + off) .word) s = .next { s with hostReads := readReg s r :: s.hostReads } :=
  perform_read_eq_next_iff.mpr ⟨r, accessReg_offset hb h4 ho, fun _ _ => hf, by simp [hheld, returnWord]⟩

/-- A flag's bit in a register word (R18). -/
theorem zeroExtend_ofBool (b : Bool) : (BitVec.ofBool b).zeroExtend 32 = if b then 1#32 else 0#32 := by
  cases b <;> rfl

/-- STATUS by the expression of R33, each flag as the number it is. -/
theorem statusWord_eq (s : State) : statusWord s =
    s.bitcnt.zeroExtend 32 <<< 16 ||| s.endph.code.zeroExtend 32 <<< 12 ||| s.phase.code.zeroExtend 32 <<< 8
      ||| (if s.cmderr then 1#32 else 0#32) <<< 4 ||| s.result.code.zeroExtend 32 <<< 2
      ||| (if s.done then 1#32 else 0#32) <<< 1 ||| (if s.phase ≠ .idle then 1#32 else 0#32) := by
  simp only [statusWord, zeroExtend_ofBool, State.busy, decide_eq_true_eq]

/-- Settles O13, offset by offset; only STATUS is not a field of the state. -/
theorem registerReadsReturnTheirValues : Obligations.RegisterReadsReturnTheirValues := by
  intro s hb hheld hf entry hentry
  rw [← statusWord_eq s] at hentry
  simp only [List.mem_cons, List.not_mem_nil, or_false] at hentry
  have hread (r : Reg) (off : Nat) (h4 : off % 4 = 0) (ho : Reg.ofOffset off = some r) :=
    perform_read_offset hb h4 ho hheld hf
  rcases hentry with rfl | rfl | rfl | rfl | rfl | rfl | rfl | rfl
  exacts [hread .cmd 0x00 rfl rfl, hread .status 0x04 rfl rfl, hread .frame0 0x08 rfl rfl, hread .frame1 0x0C rfl rfl,
    hread .hum 0x10 rfl rfl, hread .temp 0x14 rfl rfl, hread .hold 0x18 rfl rfl, hread .reserved 0x1C rfl rfl]

/-- Host reads, however many, change nothing but what the host has read (R34). -/
theorem performAll_reads {reads : List (Nat × AccessWidth)} {s u : State}
    (h : performAll (reads.map fun x => .read x.1 x.2) s = .next u) : u = { s with hostReads := u.hostReads } := by
  induction reads generalizing s with
  | nil => obtain rfl : s = u := Host.Outcome.next.inj h; rfl
  | cons x xs ih =>
    simp only [List.map_cons, performAll] at h
    split at h
    next t ht =>
      obtain ⟨r, _, _, rfl⟩ := perform_read_eq_next_iff.mp ht
      have hrest := ih h
      exact hrest
    all_goals simp at h

/-- Settles O15: what a read returns depends on no word the host has read, and reads change nothing else. -/
theorem readsAreIdempotent : Obligations.ReadsAreIdempotent := by
  intro a w s t h
  obtain ⟨r, hacc, hf, rfl⟩ := perform_read_eq_next_iff.mp h
  refine ⟨if s.resetHeld then 0 else readReg s r, rfl, fun between u hu => ?_⟩
  have hframe := performAll_reads hu
  refine ⟨?_, hframe⟩
  rw [hframe]
  exact perform_read_eq_next_iff.mpr ⟨r, hacc, hf, rfl⟩

/-- A write at BASE is a command write (R35). -/
theorem perform_write_cmd {s : State} (hb : s.par.base % 32 = 0) (hheld : s.resetHeld = false) (v : Word) :
    perform (.write (s.par.base + 0x00) .word v) s = commandWrite v s := by
  simp only [perform, busWrite, accessReg_offset (off := 0x00) hb rfl rfl]
  simp [writeAccess, hheld]

/-- The word 1 is READ's, in every state (R46). -/
theorem commandWrite_read (s : State) : commandWrite 0x00000001 s = execRead s :=
  commandWrite_of_ok (i := .read) s (by decide)

/-- Settles O16: an accepted READ leaves IDLE, so the second one is rejected. -/
theorem onlyCommandWritesHaveAnEffect : Obligations.OnlyCommandWritesHaveAnEffect := by
  intro s hb hheld
  refine ⟨perform_write_cmd hb hheld, fun off hoff v => ?_, fun hidle => ⟨acceptRead s, ?_, rfl, ?_⟩⟩
  · obtain ⟨h4, r, ho, hr⟩ := Reg.ofOffset_ne_cmd hoff
    exact perform_write_of_ne_cmd hb h4 ho hr v
  · exact (perform_write_cmd hb hheld _).trans ((commandWrite_read s).trans (if_pos hidle))
  · have hbusy : (acceptRead s).phase ≠ .idle := by simp
    exact (perform_write_cmd (s := acceptRead s) hb hheld _).trans ((commandWrite_read _).trans (if_neg hbusy))

end Sys2Proof.Machine
end

section
/-! PROOFS. The command word (spec/30_encoding.md): the word of a written command (R53, R54), which words are reserved
(R50), and what a write of each word does (R49). -/
namespace Sys2Proof

theorem LineLevel.toNat_bit (l : LineLevel) : l.bit.toNat = l.toNat := by cases l <;> rfl

theorem LineLevel.toNat_ofBool_beq_one {level : Nat} (h : level ≤ 1) :
    (LineLevel.ofBool (level == 1)).toNat = level := by
  obtain rfl | rfl : level = 0 ∨ level = 1 := by omega
  all_goals rfl

theorem LineLevel.ofBool_eq_ite (b : Bool) : LineLevel.ofBool b = if b then .high else .low := by cases b <;> rfl

/-- R53's word of a MEASURE, as a number: R45's fields at their places. -/
theorem toNat_encode_measure (l : LineLevel) (n : TickCount) :
    (encode (.measure l n)).toNat = n.toNat <<< 16 ||| l.toNat <<< 8 ||| 0x2 := by
  show BitVec.toNat (w := 16 + 7 + 1 + 4 + 4) (n ++ 0#7 ++ l.bit ++ 0#4 ++ 0x2#4) = _
  simp only [BitVec.toNat_append, Nat.shiftLeft_or_distrib, ← Nat.shiftLeft_add, l.toNat_bit]
  simp

theorem Asm.assemble_measure {level t : Nat} (hl : level ≤ 1) (ht : t ≤ 65535) :
    (Asm.measure level t).assemble = some (.measure (.ofBool (level == 1)) (BitVec.ofNat 16 t)) := by
  simp [Asm.assemble, Asm.wellFormed, hl, ht]

theorem Asm.assemble_measure_eq_none {level t : Nat} (h : ¬ (level ≤ 1 ∧ t ≤ 65535)) :
    (Asm.measure level t).assemble = none := by
  simpa [Asm.assemble, Asm.wellFormed] using h

theorem Asm.assemble_measureLow (t : Nat) : (Asm.measureLow t).assemble = (Asm.measure 0 t).assemble := by
  simp [Asm.assemble, Asm.wellFormed, LineLevel.ofBool]

theorem Asm.assemble_measureHigh (t : Nat) : (Asm.measureHigh t).assemble = (Asm.measure 1 t).assemble := by
  simp [Asm.assemble, Asm.wellFormed, LineLevel.ofBool]

/-- The row of R53's table for MEASURE. -/
theorem Asm.word_measure {level t : Nat} (hl : level ≤ 1) (ht : t ≤ 65535) :
    (Asm.measure level t).assemble.map encode = some (BitVec.ofNat 32 ((t <<< 16) ||| (level <<< 8) ||| 0x2)) := by
  have hword : (encode (.measure (.ofBool (level == 1)) (BitVec.ofNat 16 t))).toNat =
      t <<< 16 ||| level <<< 8 ||| 0x2 := by
    rw [toNat_encode_measure, LineLevel.toNat_ofBool_beq_one hl, BitVec.toNat_ofNat, Nat.mod_eq_of_lt (by omega)]
  rw [Asm.assemble_measure hl ht, Option.map_some, ← hword, BitVec.ofNat_toNat, BitVec.setWidth_eq]

/-- Settles O3: a MEASURE's word is its fields at their places, and a pseudo-instruction's word is that of the MEASURE it
expands to. -/
theorem writtenCommandsHaveTheirWords : Obligations.WrittenCommandsHaveTheirWords := by
  refine ⟨rfl, rfl, rfl, fun level t => Asm.word_measure, fun t ht => ⟨?low, ?high, Asm.assemble_measureLow t,
    Asm.assemble_measureHigh t⟩, fun level t => Asm.assemble_measure_eq_none⟩
  case low =>
    simpa [Asm.assemble_measureLow] using Asm.word_measure (level := 0) (by decide) ht
  case high =>
    simpa [Asm.assemble_measureHigh, Nat.or_assoc] using Asm.word_measure (level := 1) (by decide) ht

/-- A word is its bits 31:8, 7:4 and 3:0 (R45). -/
theorem fields_append (v : Word) : fieldOperands v ++ (fieldReservedLow v ++ fieldOp v) = v := by
  unfold fieldOperands fieldReservedLow fieldOp
  rw [BitVec.extractLsb'_append_extractLsb'_eq_extractLsb' (by rfl),
    BitVec.extractLsb'_append_extractLsb'_eq_extractLsb' (by rfl)]
  exact BitVec.extractLsb'_eq_self

/-- READ's word, by its fields (R46, R49). -/
theorem eq_one_of_fields {v : Word} (hlow : fieldReservedLow v = 0) (hop : fieldOp v = 0x1)
    (hoperands : fieldOperands v = 0) : v = 0x00000001 := by
  rw [← fields_append v, hlow, hop, hoperands]
  rfl

/-- The tests of R49 that make a word a MEASURE. -/
theorem decode_measure {v : Word} (hlow : fieldReservedLow v = 0) (hhigh : fieldReservedHigh v = 0)
    (hop : fieldOp v = 0x2) : decode v = .ok (.measure (fieldLevel v) (fieldTimeout v)) := by
  have hv : v ≠ 0#32 := by rintro rfl; exact absurd hop (by decide)
  simp [decode, hv, hlow, hhigh, hop]

/-- A word is rejected exactly when it is neither NOP's word nor READ's and fails R49's tests for a MEASURE. -/
theorem decode_error_iff {v : Word} : (∃ e, decode v = .error e) ↔
    v ≠ 0x00000000 ∧ v ≠ 0x00000001 ∧ ¬ (fieldReservedLow v = 0 ∧ fieldReservedHigh v = 0 ∧ fieldOp v = 0x2) := by
  constructor
  · rintro ⟨e, he⟩
    refine ⟨?nop, ?read, ?measure⟩
    case nop => rintro rfl; exact nomatch (show decode 0 = .ok .nop by decide).symm.trans he
    case read => rintro rfl; exact nomatch (show decode 1 = .ok .read by decide).symm.trans he
    case measure => rintro ⟨hlow, hhigh, hop⟩; exact nomatch (decode_measure hlow hhigh hop).symm.trans he
  · rintro ⟨h0, h1, hm⟩
    unfold decode
    split_ifs with hnop hres hread hop
    · exact absurd hnop h0
    · exact ⟨_, rfl⟩
    · exact absurd (eq_one_of_fields (and_iff_not_or_not.mpr hres).1 hread.1 hread.2) h1
    · obtain ⟨hlow, hhigh⟩ := and_iff_not_or_not.mpr hres
      exact absurd ⟨hlow, hhigh, hop⟩ hm
    all_goals exact ⟨_, rfl⟩

/-- R50's list of the reserved encodings: the words that are neither NOP's nor READ's nor a MEASURE's. -/
theorem reserved_encodings_iff {v : Word} :
    (0x3 ≤ (fieldOp v).toNat ∨ fieldReservedLow v ≠ 0 ∨ fieldReservedHigh v ≠ 0 ∨
      (fieldOp v = 0x0 ∧ v ≠ 0x00000000) ∨ (fieldOp v = 0x1 ∧ v ≠ 0x00000001)) ↔
    v ≠ 0x00000000 ∧ v ≠ 0x00000001 ∧ ¬ (fieldReservedLow v = 0 ∧ fieldReservedHigh v = 0 ∧ fieldOp v = 0x2) := by
  constructor
  · intro h
    refine ⟨?nop, ?read, ?measure⟩
    case nop => rintro rfl; exact absurd h (by decide)
    case read => rintro rfl; exact absurd h (by decide)
    case measure => rintro ⟨hlow, hhigh, hop⟩; simp [hlow, hhigh, hop] at h
  · rintro ⟨h0, h1, hm⟩
    have hop : 3 ≤ (fieldOp v).toNat ∨ fieldOp v = 0 ∨ fieldOp v = 1 ∨ fieldOp v = 2 := by bv_omega
    rcases hop with hop | hop | hop | hop
    · exact .inl hop
    · exact .inr (.inr (.inr (.inl ⟨hop, h0⟩)))
    · exact .inr (.inr (.inr (.inr ⟨hop, h1⟩)))
    · rcases not_and_or.mp fun hres => hm ⟨hres.1, hres.2, hop⟩ with hlow | hhigh
      · exact .inr (.inl hlow)
      · exact .inr (.inr (.inl hhigh))

end Sys2Proof

namespace Sys2Proof.Machine

theorem commandWrite_of_error {v : Word} (h : ∃ e, decode v = .error e) (s : State) :
    commandWrite v s = .next (rejectCommand s) := by
  obtain ⟨e, he⟩ := h
  simp only [commandWrite, he]

/-- The word 0 is NOP's, in every state (R46). -/
theorem commandWrite_nop (s : State) : commandWrite 0x00000000 s = .next (clearCommandError s) :=
  commandWrite_of_ok (i := .nop) s (by decide)

theorem commandWrite_measure {v : Word} (hlow : fieldReservedLow v = 0) (hhigh : fieldReservedHigh v = 0)
    (hop : fieldOp v = 0x2) (s : State) : commandWrite v s = execMeasure (fieldLevel v) (fieldTimeout v) s :=
  commandWrite_of_ok s (decode_measure hlow hhigh hop)

/-- Settles O5: R50's list is what R49's tests leave over. -/
theorem reservedWordsOnlySetCommandError : Obligations.ReservedWordsOnlySetCommandError := fun _ =>
  ⟨decode_error_iff.trans reserved_encodings_iff.symm, fun h s => commandWrite_of_error h s⟩

/-- Settles O7, test by test; READ's and MEASURE's own tests of IDLE are those of `execRead` and `execMeasure`. -/
theorem commandWriteFollowsItsPseudocode : Obligations.CommandWriteFollowsItsPseudocode := by
  intro v s
  rw [ite_not, ite_not, ← LineLevel.ofBool_eq_ite]
  by_cases h0 : v = 0x00000000
  · subst h0
    exact commandWrite_nop s
  refine Eq.trans ?_ (if_neg h0).symm
  by_cases hres : fieldReservedLow v ≠ 0 ∨ fieldReservedHigh v ≠ 0
  · refine (commandWrite_of_error (decode_error_iff.mpr (reserved_encodings_iff.mp ?_)) s).trans (if_pos hres).symm
    exact hres.elim (.inr ∘ .inl) (.inr ∘ .inr ∘ .inl)
  obtain ⟨hlow, hhigh⟩ := and_iff_not_or_not.mpr hres
  refine Eq.trans ?_ (if_neg hres).symm
  by_cases hread : fieldOp v = 0x1 ∧ fieldOperands v = 0
  · obtain rfl := eq_one_of_fields hlow hread.1 hread.2
    exact commandWrite_read s
  refine Eq.trans ?_ (if_neg hread).symm
  by_cases hop : fieldOp v = 0x2
  · exact (commandWrite_measure hlow hhigh hop s).trans (if_pos hop).symm
  · refine (commandWrite_of_error (decode_error_iff.mpr ⟨h0, ?_, fun hm => hop hm.2.2⟩) s).trans (if_neg hop).symm
    rintro rfl
    exact hread (by decide)

end Sys2Proof.Machine
end

section
/-! PROOFS. The sequencer's tick and the hold measurement (spec/40_signal_timer.md R60 to R65): the tick phase by phase,
one step of `HoldStep` on and off the expected level, and the sample that ends one hold and begins the next; and NOP
(R62). -/
namespace Sys2Proof

theorem LineLevel.ne_low_iff {l : LineLevel} : l ≠ .low ↔ l = .high := by cases l <;> decide

theorem LineLevel.ne_high_iff {l : LineLevel} : l ≠ .high ↔ l = .low := by cases l <;> decide

end Sys2Proof

namespace Sys2Proof.Machine

section
variable {s : State} {l : LineLevel}

/-! The rows of R60's table. -/

theorem holdParams_presL (hp : s.phase = .presL) : holdParams s = some (.low, s.par.toPresL) := by
  simp only [holdParams, hp]

theorem holdParams_presH (hp : s.phase = .presH) : holdParams s = some (.high, s.par.toPresH) := by
  simp only [holdParams, hp]

theorem holdParams_bitL (hp : s.phase = .bitL) : holdParams s = some (.low, s.par.toBitL) := by
  simp only [holdParams, hp]

theorem holdParams_bitH (hp : s.phase = .bitH) : holdParams s = some (.high, s.par.toBitH) := by
  simp only [holdParams, hp]

theorem holdParams_meas (hp : s.phase = .meas) : holdParams s = some (s.mlevel, s.mto) := by
  simp only [holdParams, hp]

/-! What follows a hold that ended with count `n`, phase by phase (R61, R65, R76). -/

theorem endHold_presL (n : TickCount) (hp : s.phase = .presL) : endHold n s = nextHold .presH s := by
  simp only [endHold, hp]

theorem endHold_presH (n : TickCount) (hp : s.phase = .presH) : endHold n s = nextHold .bitL s := by
  simp only [endHold, hp]

theorem endHold_bitL (n : TickCount) (hp : s.phase = .bitL) : endHold n s = nextHold .bitH s := by
  simp only [endHold, hp]

theorem endHold_bitH (n : TickCount) (hp : s.phase = .bitH) : endHold n s = decodeBit n s := by
  simp only [endHold, hp]

theorem endHold_meas (n : TickCount) (hp : s.phase = .meas) : endHold n s = measureEnd n s := by
  simp only [endHold, hp]

/-- `HoldStep` where a hold is measured: count the sample or end the hold (R60). -/
theorem holdStep_eq {e : LineLevel} {n : TickCount} (h : holdParams s = some (e, n)) :
    holdStep l s = if l = e then countSample n s else endHold s.cnt s := by
  simp only [holdStep, h]

theorem holdStep_off_level {e : LineLevel} {n : TickCount} (h : holdParams s = some (e, n)) (hne : l ≠ e) :
    holdStep l s = endHold s.cnt s :=
  (holdStep_eq h).trans (if_neg hne)

/-- The model's `nextHold` is R61's call: `HoldStep` on a sample at the level of the hold that begins with it. -/
theorem holdStep_startHold {p : Phase} {n : TickCount} (h : holdParams (startHold p s) = some (l, n)) :
    holdStep l (startHold p s) = nextHold p s := by
  rw [holdStep_eq h, if_pos rfl]
  simp only [nextHold, h]

/-- In the five hold phases the tick is `HoldStep` of its sample (R64). -/
theorem tick_hold (hp : s.phase ∈ [Phase.presL, .presH, .bitL, .bitH, .meas]) :
    tick l s = .next (holdStep l s) := by
  simp only [List.mem_cons, List.not_mem_nil, or_false] at hp
  rcases hp with hp | hp | hp | hp | hp <;> simp only [tick, hp]

/-- The phases that have a row in R60's table are the five hold phases. -/
theorem mem_holdPhases_of_holdParams {x : LineLevel × TickCount} (h : holdParams s = some x) :
    s.phase ∈ [Phase.presL, .presH, .bitL, .bitH, .meas] := by
  cases hp : s.phase with
  | presL | presH | bitL | bitH | meas => decide
  | idle | wake | req | reserved => simp [holdParams, hp] at h

theorem tick_of_holdParams {x : LineLevel × TickCount} (h : holdParams s = some x) :
    tick l s = .next (holdStep l s) :=
  tick_hold (mem_holdPhases_of_holdParams h)

theorem tick_idle (hp : s.phase = .idle) : tick l s = .next s := by
  simp only [tick, hp]

/-- In IDLE, WAKE and REQ the line is not sampled (R64). -/
theorem tick_sample_irrelevant (hp : s.phase ∈ [Phase.idle, .wake, .req]) (l' : LineLevel) :
    tick l' s = tick l s := by
  simp only [List.mem_cons, List.not_mem_nil, or_false] at hp
  rcases hp with hp | hp | hp
  · rw [tick_idle hp, tick_idle hp]
  · rw [tick_wake hp, tick_wake hp]
  · rw [tick_req hp, tick_req hp]

/-- `MeasureEnd(n)` with `Finish(OK)` written out (R65, R94). -/
theorem measureEnd_eq (n : TickCount) (hp : s.phase = .meas) : measureEnd n s = { s with
    hold := BitVec.ofNat 32 n.toNat, result := .ok, done := true, endph := .meas, phase := .idle, cnt := 0,
    lineOe := false, lineOut := .low } := by
  rw [BitVec.ofNat_toNat, ← hp]
  rfl

end

/-- Settles O22: a tick of a hold phase is `HoldStep`, and `countSample` is the pseudocode's branch `s == exp`. -/
theorem holdStepFollowsItsPseudocode : Obligations.HoldStepFollowsItsPseudocode := fun _ =>
  ⟨holdParams_presL, holdParams_presH, holdParams_bitL, holdParams_bitH, holdParams_meas,
    fun _ _ _ h => (tick_of_holdParams h).trans (congrArg Host.Outcome.next (holdStep_eq h))⟩

/-- Settles O24: the levels of a READ's holds alternate, so a sample off one hold's level is at the next one's. -/
theorem holdStepMeetsTheRecursion : Obligations.HoldStepMeetsTheRecursion := by
  intro l s level timeout h hne
  have hend : holdStep l s = endHold s.cnt s := holdStep_off_level h hne
  have hoff {e : LineLevel} {n : TickCount} (he : holdParams s = some (e, n)) : l ≠ e := by
    cases h.symm.trans he
    exact hne
  refine ⟨fun hp => ?presL, fun hp => ?presH, fun hp => ?bitL, fun hp hmore => ?nextBit, fun hp hlast => ?lastBit,
    fun hp => hend.trans (endHold_meas _ hp)⟩
  case presL =>
    obtain rfl := LineLevel.ne_low_iff.mp (hoff (holdParams_presL hp))
    exact hend.trans ((endHold_presL _ hp).trans (holdStep_startHold (holdParams_presH rfl)).symm)
  case presH =>
    obtain rfl := LineLevel.ne_high_iff.mp (hoff (holdParams_presH hp))
    exact hend.trans ((endHold_presH _ hp).trans (holdStep_startHold (holdParams_bitL rfl)).symm)
  case bitL =>
    obtain rfl := LineLevel.ne_low_iff.mp (hoff (holdParams_bitL hp))
    exact hend.trans ((endHold_bitL _ hp).trans (holdStep_startHold (holdParams_bitH rfl)).symm)
  case nextBit =>
    obtain rfl := LineLevel.ne_high_iff.mp (hoff (holdParams_bitH hp))
    calc holdStep .low s = decodeBit s.cnt s := hend.trans (endHold_bitH _ hp)
      _ = nextHold .bitL (takeBit s.cnt s) := if_neg hmore
      _ = holdStep .low (startHold .bitL (takeBit s.cnt s)) := (holdStep_startHold (holdParams_bitL rfl)).symm
  case lastBit =>
    exact hend.trans ((endHold_bitH _ hp).trans (if_pos hlast))

/-- Settles O20, phase by phase. -/
theorem tickDispatchesOnThePhase : Obligations.TickDispatchesOnThePhase := fun _ _ =>
  ⟨tick_idle, tick_wake, tick_req, tick_hold, tick_sample_irrelevant⟩

/-- Settles O26: the hold of a MEASURE ends with `measureEnd` of its count. -/
theorem measureEndsWithItsCount : Obligations.MeasureEndsWithItsCount := by
  intro l s hp hne
  have hm := holdParams_meas hp
  calc tick l s = .next (holdStep l s) := tick_of_holdParams hm
    _ = .next (endHold s.cnt s) := by rw [holdStep_off_level hm hne]
    _ = .next (measureEnd s.cnt s) := by rw [endHold_meas _ hp]
    _ = _ := by rw [measureEnd_eq _ hp]

/-- CMDERR is bit 4 of STATUS (R18). -/
theorem statusWord_bit_four (s : State) : (statusWord s).getLsbD 4 = s.cmderr := by
  have hbusy : ((BitVec.ofBool s.busy).zeroExtend 32).getLsbD 4 = false := by simp
  simp only [statusWord, BitVec.getLsbD_or, hbusy]
  simp (disch := omega) only [field_bit_outside, Bool.or_false, Bool.false_or]
  cases s.cmderr <;> rfl

/-- The bits of STATUS other than bit 4 do not show CMDERR (R18). -/
theorem statusWord_clearCommandError_bit (s : State) {i : Nat} (h : i ≠ 4) :
    (statusWord (clearCommandError s)).getLsbD i = (statusWord s).getLsbD i := by
  have hcmderr (b : Bool) : ((BitVec.ofBool b).zeroExtend 32 <<< 4).getLsbD i = false :=
    field_bit_outside _ (by omega)
  simp only [statusWord, BitVec.getLsbD_or, hcmderr]
  rfl

/-- What NOP does to the word a host reads: bit 4 is cleared (R62). -/
theorem statusWord_clearCommandError (s : State) :
    statusWord (clearCommandError s) = statusWord s &&& ~~~BitVec.twoPow 32 4 := by
  apply BitVec.eq_of_getLsbD_eq
  intro i hi
  rw [BitVec.getLsbD_and, BitVec.getLsbD_not, BitVec.getLsbD_twoPow]
  by_cases h : i = 4
  · subst h
    rw [statusWord_bit_four, clearCommandError_cmderr]
    simp
  · rw [statusWord_clearCommandError_bit s h]
    simp [hi, Ne.symm h]

/-- Settles O8: of the words with OP = 0 only NOP's is accepted, and CMDERR is the one bit of STATUS that NOP clears. -/
theorem nopClearsTheCommandError : Obligations.NopClearsTheCommandError := by
  refine ⟨rfl, fun s => rfl, fun v hop h0 => ?rejected, fun s h => ?status⟩
  case rejected =>
    refine decode_error_iff.mpr ⟨h0, ?_, fun hm => ?_⟩
    · rintro rfl
      exact absurd hop (by decide)
    · exact absurd (hop.symm.trans hm.2.2) (by decide)
  case status =>
    calc statusWord (clearCommandError s) = statusWord s &&& ~~~BitVec.twoPow 32 4 :=
        statusWord_clearCommandError s
      _ = 0x00000000 := by rw [h]; decide

end Sys2Proof.Machine
end

section
/-! PROOFS. READ's pulses and a bit's high hold (spec/41_frame_decoder.md R71, R72, R76, R77): the line in WAKE and REQ,
one sample of a hold at its level, and the bit that a low sample in BIT_H decodes. -/
namespace Sys2Proof.Machine

section
variable {s : State}

/-- In WAKE the line is driven low (R71). -/
theorem lineDrive_wake (hi : Inv s) (hp : s.phase = .wake) : lineDrive s = some .low := by
  simp [lineDrive, hi.line_enabled, hi.line_level, hp]

/-- In REQ the line is driven high (R72). -/
theorem lineDrive_req (hi : Inv s) (hp : s.phase = .req) : lineDrive s = some .high := by
  simp [lineDrive, hi.line_enabled, hi.line_level, hp]

/-- A hold below its timeout takes one more sample at its level (R60). -/
theorem countSample_of_lt {n : TickCount} (h : s.cnt.toNat < n.toNat) :
    countSample n s = { s with cnt := s.cnt + 1 } :=
  if_neg (by omega)

/-- A hold that has reached its timeout takes none (R60). -/
theorem countSample_of_le {n : TickCount} (h : n.toNat ≤ s.cnt.toNat) : countSample n s = finish .timeout s :=
  if_pos (by omega)

/-- A tick whose sample is at the level of the hold counts it (R60, R64). -/
theorem tick_on_level {l : LineLevel} {n : TickCount} (h : holdParams s = some (l, n)) :
    tick l s = .next (countSample n s) := by
  rw [tick_of_holdParams h, holdStep_eq h, if_pos rfl]

/-- A low sample in BIT_H decodes a bit (R61, R76). -/
theorem tick_low_bitH (hp : s.phase = .bitH) : tick .low s = .next (decodeBit s.cnt s) := by
  have h := holdParams_bitH hp
  rw [tick_of_holdParams h, holdStep_off_level h (by decide), endHold_bitH _ hp]

/-- The bit that `bitcnt` counts to 40 is the one decoded at 39. -/
theorem bitcnt_succ_eq_forty_iff (c : BitVec 6) : c + 1 = 40 ↔ c.toNat = 39 := by
  bv_omega

/-- A bit that is not the frame's last is followed by the next bit's low hold with count 1 (R76). -/
theorem tick_low_more_bits (hv : s.par.InRange) (hp : s.phase = .bitH) (h : s.bitcnt.toNat ≠ 39) :
    tick .low s = .next { takeBit s.cnt s with phase := .bitL, cnt := 1 } := by
  have hmore : (takeBit s.cnt s).bitcnt ≠ 40 := mt (bitcnt_succ_eq_forty_iff _).mp h
  rw [tick_low_bitH hp, decodeBit, if_neg hmore, nextHold_bitL (s := takeBit s.cnt s) hv]

/-- The frame's last bit completes it (R76). -/
theorem tick_low_last_bit (hp : s.phase = .bitH) (h : s.bitcnt.toNat = 39) :
    tick .low s = .next (complete (takeBit s.cnt s)) := by
  have hlast : (takeBit s.cnt s).bitcnt = 40 := (bitcnt_succ_eq_forty_iff _).mpr h
  rw [tick_low_bitH hp, decodeBit, if_pos hlast]

end

/-- Shifting a bit in doubles the 40-bit value and adds the bit, the earliest bit falling out (R77). -/
theorem toNat_shiftIn (f : BitVec 40) (b : Bool) : (shiftIn f b).toNat = (2 * f.toNat + b.toNat) % 2 ^ 40 := by
  have hb := b.toNat_lt
  simp only [shiftIn, BitVec.toNat_append, BitVec.toNat_ofBool, BitVec.extractLsb'_toNat, Nat.shiftRight_zero]
  rw [← Nat.shiftLeft_add_eq_or_of_lt (by omega), Nat.shiftLeft_eq]
  omega

/-- Settles O31: `wakeTick` is the pseudocode, and the invariant ties the line to the phase. -/
theorem wakeTickFollowsItsPseudocode : Obligations.WakeTickFollowsItsPseudocode := fun _ _ hp =>
  ⟨fun hi => ⟨lineDrive_wake hi hp, hi.params.1.1⟩, tick_wake hp⟩

/-- Settles O33: `reqTick` is the pseudocode, and the invariant ties the line to the phase. -/
theorem reqTickFollowsItsPseudocode : Obligations.ReqTickFollowsItsPseudocode := fun _ _ hp =>
  ⟨fun hi => lineDrive_req hi hp, tick_req hp⟩

/-- Settles O35: a high sample is counted or times out, a low one decodes the bit, which `shiftIn` adds in numbers. -/
theorem bitHighHoldsDecodeByTheThreshold : Obligations.BitHighHoldsDecodeByTheThreshold := by
  intro s hv hp
  have hhigh : tick .high s = .next (countSample s.par.toBitH s) := tick_on_level (holdParams_bitH hp)
  refine ⟨fun hlt => ?count, fun heq => ?timeout, fun b f hb hf => ?decode⟩
  case count => rw [hhigh, countSample_of_lt hlt]
  case timeout =>
    rw [hhigh, countSample_of_le heq.ge, ← hp]
    rfl
  case decode =>
    have hbit : (bitOfCount s.par s.cnt).toNat = b := by
      rw [hb, bitOfCount, Bool.toNat, Bool.cond_decide]
    obtain rfl : shiftIn s.shreg (bitOfCount s.par s.cnt) = f :=
      BitVec.eq_of_toNat_eq (by rw [toNat_shiftIn, hbit, hf])
    refine ⟨fun hmore => tick_low_more_bits hv hp hmore, fun hlast => ?_⟩
    rw [tick_low_last_bit hp hlast, ← (bitcnt_succ_eq_forty_iff _).mpr hlast]
    rfl

end Sys2Proof.Machine
end

section
/-! PROOFS. A frame's bytes, its checksum and the values it is published with (spec/41_frame_decoder.md R78 to R83), each
in numbers. -/
namespace Sys2Proof.Machine

theorem toNat_append_byte {w : Nat} (x : BitVec w) (b : Byte) : (x ++ b).toNat = x.toNat * 256 + b.toNat := by
  rw [BitVec.toNat_append, ← Nat.shiftLeft_add_eq_or_of_lt b.isLt, Nat.shiftLeft_eq]

/-- Each byte of a frame is the one that was put there (R42). -/
theorem frameBytes_append (b0 b1 b2 b3 b4 : Byte) {f : BitVec 40} (h : f = b0 ++ b1 ++ b2 ++ b3 ++ b4) :
    frameByte0 f = b0 ∧ frameByte1 f = b1 ∧ frameByte2 f = b2 ∧ frameByte3 f = b3 ∧ frameByte4 f = b4 := by
  subst h
  simp only [← BitVec.toNat_inj, frameByte0, frameByte1, frameByte2, frameByte3, frameByte4,
    BitVec.extractLsb'_toNat, toNat_append_byte, Nat.shiftRight_eq_div_pow]
  omega

/-- The checksum test in numbers (R78). -/
theorem frameOk_iff (f : BitVec 40) : frameOk f = true ↔ (frameByte4 f).toNat =
    ((frameByte0 f).toNat + (frameByte1 f).toNat + (frameByte2 f).toNat + (frameByte3 f).toNat) % 256 := by
  rw [frameOk, beq_iff_eq, ← BitVec.toNat_inj]
  simp only [checksum, BitVec.toNat_add, Nat.mod_add_mod]

/-- FRAME0 in numbers (R79). -/
theorem frame0Word_eq (b0 b1 b2 b3 : Byte) : frame0Word b0 b1 b2 b3 =
    BitVec.ofNat 32 (((b0.toNat * 256 + b1.toNat) * 256 + b2.toNat) * 256 + b3.toNat) := by
  simp only [← toNat_append_byte, BitVec.ofNat_toNat]
  exact (BitVec.setWidth_eq _).symm

/-- FRAME0 bit 15 is the sign bit of byte 2 (R83). -/
theorem getLsbD_frame0Word_sign (b0 b1 b2 b3 : Byte) : (frame0Word b0 b1 b2 b3).getLsbD 15 = b2.getLsbD 7 :=
  calc (b0 ++ b1 ++ b2 ++ b3).getLsbD 15 = (b0 ++ b1 ++ b2).getLsbD 7 := BitVec.getLsbD_append
    _ = b2.getLsbD 7 := BitVec.getLsbD_append

/-- FRAME0 holds bits 39 to 8 of the frame (R42, R79). -/
theorem frame0Word_frameBytes (f : BitVec 40) :
    frame0Word (frameByte0 f) (frameByte1 f) (frameByte2 f) (frameByte3 f) = f.extractLsb' 8 32 := by
  simp only [frame0Word, frameByte0, frameByte1, frameByte2, frameByte3]
  rw [BitVec.extractLsb'_append_extractLsb'_eq_extractLsb' (by rfl),
    BitVec.extractLsb'_append_extractLsb'_eq_extractLsb' (by rfl),
    BitVec.extractLsb'_append_extractLsb'_eq_extractLsb' (by rfl)]

/-- HUM in numbers (R82). -/
theorem humidityWord_eq (b0 b1 : Byte) : humidityWord b0 b1 = BitVec.ofNat 32 (b0.toNat * 256 + b1.toNat) := by
  rw [← toNat_append_byte, BitVec.ofNat_toNat]
  rfl

/-- HUM holds bits 39 to 24 of the frame (R42, R79). -/
theorem humidityWord_frameBytes (f : BitVec 40) :
    humidityWord (frameByte0 f) (frameByte1 f) = (f.extractLsb' 24 16).zeroExtend 32 := by
  simp only [humidityWord, frameByte0, frameByte1]
  rw [BitVec.extractLsb'_append_extractLsb'_eq_extractLsb' (by rfl)]

/-- The sign bit of a byte as a comparison of its number. -/
theorem getLsbD_seven_iff (b : Byte) : b.getLsbD 7 = true ↔ 128 ≤ b.toNat := by
  have h : b.msb = decide (128 ≤ b.toNat) := BitVec.msb_eq_decide b
  rw [← decide_eq_true_iff (p := 128 ≤ b.toNat), ← h]
  rfl

/-- The temperature of bytes 2 and 3 in tenths, sign and magnitude (R83). -/
def temperatureTenths (b2 b3 : Byte) : Int :=
  if b2.getLsbD 7 then -((b2.toNat % 128 * 256 + b3.toNat : Nat) : Int) else (b2.toNat % 128 * 256 + b3.toNat : Nat)

/-- A byte without the sign bit is its own low seven bits, so the temperature may be read off the byte's number. -/
theorem temperatureTenths_eq (b2 b3 : Byte) : temperatureTenths b2 b3 =
    if 128 ≤ b2.toNat then -((b2.toNat % 128 * 256 + b3.toNat : Nat) : Int) else (b2.toNat * 256 + b3.toNat : Nat) := by
  simp only [temperatureTenths, getLsbD_seven_iff]
  split
  · rfl
  · rw [Nat.mod_eq_of_lt (by omega)]

/-- Seven bits of byte 2 and all of byte 3 make at most 32767 (R83). -/
theorem temperatureTenths_bounds (b2 b3 : Byte) :
    -32767 ≤ temperatureTenths b2 b3 ∧ temperatureTenths b2 b3 ≤ 32767 := by
  have := b3.isLt
  unfold temperatureTenths
  split <;> omega

theorem temperatureMagnitude_eq (b2 b3 : Byte) :
    temperatureMagnitude b2 b3 = BitVec.ofNat 32 (b2.toNat % 128 * 256 + b3.toNat) := by
  have h : (b2.extractLsb' 0 7).toNat = b2.toNat % 128 := by simp
  rw [← h, ← toNat_append_byte, BitVec.ofNat_toNat]
  rfl

/-- TEMP is the temperature in two's complement (R79, R83). -/
theorem temperatureWord_eq (b2 b3 : Byte) : temperatureWord b2 b3 = BitVec.ofInt 32 (temperatureTenths b2 b3) := by
  rw [temperatureWord, temperatureTenths, temperatureMagnitude_eq]
  split
  · rw [zero_sub, BitVec.ofInt_neg, BitVec.ofInt_natCast]
  · rw [BitVec.ofInt_natCast]

/-- TEMP, read as signed, is the temperature (R83). -/
theorem toInt_temperatureWord (b2 b3 : Byte) : (temperatureWord b2 b3).toInt = temperatureTenths b2 b3 := by
  have hb := temperatureTenths_bounds b2 b3
  rw [temperatureWord_eq]
  exact BitVec.toInt_ofInt_eq_self (by decide) (by omega) (by omega)

/-- What a frame is published as, in numbers (R79, R82, R83). -/
theorem commit_eq (s : State) : commit s = { s with
    frame0 := BitVec.ofNat 32 ((((frameByte0 s.shreg).toNat * 256 + (frameByte1 s.shreg).toNat) * 256 +
      (frameByte2 s.shreg).toNat) * 256 + (frameByte3 s.shreg).toNat)
    frame1 := BitVec.ofNat 32 (frameByte4 s.shreg).toNat
    hum := BitVec.ofNat 32 ((frameByte0 s.shreg).toNat * 256 + (frameByte1 s.shreg).toNat)
    temp := BitVec.ofInt 32 (temperatureTenths (frameByte2 s.shreg) (frameByte3 s.shreg)) } := by
  rw [← frame0Word_eq, ← humidityWord_eq, ← temperatureWord_eq, BitVec.ofNat_toNat]
  rfl

theorem complete_of_frameOk {s : State} (h : frameOk s.shreg = true) : complete s = finish .ok (commit s) := if_pos h

theorem complete_of_not_frameOk {s : State} (h : ¬ frameOk s.shreg = true) :
    complete s = finish .checksumError s :=
  if_neg h

/-- Settles O38: `frameOk` is the comparison of byte 4 with the sum, and `commit` writes the values in numbers. -/
theorem checksumDecidesTheFrame : Obligations.ChecksumDecidesTheFrame := by
  intro s hp hc f b0 b1 b2 b3 b4
  have htick := tick_low_last_bit hp (congrArg BitVec.toNat hc)
  have hok : frameOk (takeBit s.cnt s).shreg = true ↔ b4 = (b0 + b1 + b2 + b3) % 256 := frameOk_iff f
  have hcount : (40 : BitVec 6) = s.bitcnt + 1 := by rw [hc]; rfl
  refine ⟨fun hsum => ?good, fun hsum => ?bad⟩
  case good =>
    rw [htick, complete_of_frameOk (hok.mpr hsum), commit_eq, temperatureTenths_eq, hcount, ← hp]
    rfl
  case bad =>
    rw [htick, complete_of_not_frameOk (mt hok.mp hsum), hcount, ← hp]
    rfl

/-- Settles O39: HUM and TEMP of the frame's bytes in numbers. -/
theorem conversionsAreExact : Obligations.ConversionsAreExact := by
  intro s b0 b1 b2 b3 b4 hf
  obtain ⟨h0, h1, h2, h3, -⟩ := frameBytes_append b0 b1 b2 b3 b4 hf
  have hb0 := b0.isLt
  have hb1 := b1.isLt
  have hhum : (commit s).hum.toNat = b0.toNat * 256 + b1.toNat := by
    rw [commit_hum, h0, h1, humidityWord_eq, BitVec.toNat_ofNat, Nat.mod_eq_of_lt (by omega)]
  have htemp : (commit s).temp.toInt = temperatureTenths b2 b3 := by
    rw [commit_temp, h2, h3, toInt_temperatureWord]
  obtain ⟨hlow, hhigh⟩ := temperatureTenths_bounds b2 b3
  refine ⟨hhum, by omega, htemp, htemp ▸ hlow, htemp ▸ hhigh, ?negativeZero⟩
  case negativeZero =>
    rintro rfl rfl
    refine ⟨BitVec.eq_of_toInt_eq (htemp.trans (by decide)), ?_⟩
    rw [commit_frame0, h2, getLsbD_frame0Word_sign]
    rfl

end Sys2Proof.Machine
end

section
/-! PROOFS. What writes the result registers (spec/41_frame_decoder.md R79, spec/60_exceptions.md R95), input by input. -/
namespace Sys2Proof.Machine

/-- A READ that ends OK in this step publishes the frame it leaves in `shreg` (R79, R95). -/
def PublishesFrame (s t : State) : Prop :=
  s.phase = .bitH ∧ s.bitcnt = 39 ∧ frameOk t.shreg = true ∧ t.done = true ∧ t.result = .ok ∧
    t.endph = .bitH ∧ t.bitcnt = 40 ∧
    t.frame0 = t.shreg.extractLsb' 8 32 ∧ t.frame1 = (t.shreg.extractLsb' 0 8).zeroExtend 32 ∧
    t.hum = (t.shreg.extractLsb' 24 16).zeroExtend 32 ∧
    t.temp = temperatureWord (t.shreg.extractLsb' 16 8) (t.shreg.extractLsb' 8 8)

/-- A MEASURE that ends OK in this step records its count (R65, R95). -/
def RecordsHold (s t : State) : Prop :=
  s.phase = .meas ∧ t.done = true ∧ t.result = .ok ∧ t.endph = .meas ∧ t.hold = s.cnt.zeroExtend 32

/-- Each result register is kept or written by a successful end (R95). -/
def WritesResultsOnSuccess (s t : State) : Prop :=
  ((t.frame0, t.frame1, t.hum, t.temp) = (s.frame0, s.frame1, s.hum, s.temp) ∨ PublishesFrame s t) ∧
  (t.hold = s.hold ∨ RecordsHold s t)

/-- The end of a hold writes result registers where it completes a good frame or ends a MEASURE. -/
theorem HoldEnd.writesResultsOnSuccess {s t : State} (h : HoldEnd s t) : WritesResultsOnSuccess s t := by
  cases h with
  | presence | firstBit | highHold | nextBit | frameBad => exact ⟨.inl rfl, .inl rfl⟩
  | frameGood hp last good =>
    have hc : s.bitcnt = 39 := BitVec.eq_of_toNat_eq ((bitcnt_succ_eq_forty_iff _).mp last)
    exact ⟨.inr ⟨hp, hc, good, rfl, rfl, hp, last, frame0Word_frameBytes _, rfl, humidityWord_frameBytes _, rfl⟩,
      .inl rfl⟩
  | measured hp => exact ⟨.inl rfl, .inr ⟨hp, rfl, rfl, hp, rfl⟩⟩

/-- A tick writes result registers only where it ends a hold. -/
theorem TickEnd.writesResultsOnSuccess {l : LineLevel} {s t : State} (h : TickEnd l s t) :
    WritesResultsOnSuccess s t := by
  cases h with
  | idle | wakeOver | wakeOn | reqOver | reqOn | timeout | count => exact ⟨.inl rfl, .inl rfl⟩
  | holdEnd _ _ _ _ _ he => exact he.writesResultsOnSuccess

/-- A command's acceptance or rejection writes no result register. -/
theorem commandWrite_writesResultsOnSuccess {v : Word} {s t : State} (h : commandWrite v s = .next t) :
    WritesResultsOnSuccess s t := by
  rcases commandWrite_cases v s with ⟨_, he⟩ | ⟨i, _, he⟩
  · obtain rfl := Host.Outcome.next.inj (he.symm.trans h)
    exact ⟨.inl rfl, .inl rfl⟩
  · rw [he] at h
    rcases exec_cases i s with ⟨_, hx⟩ | ⟨_, _, hx⟩ | ⟨_, _, hx⟩ | ⟨_, _, _, _, hx⟩ <;>
      obtain rfl := Host.Outcome.next.inj (hx.symm.trans h) <;> exact ⟨.inl rfl, .inl rfl⟩

/-- Every input but a reset writes the result registers on success only. -/
theorem perform_writesResultsOnSuccess {e : Event} {s t : State} (hv : s.par.InRange) (h : perform e s = .next t)
    (hr : e ≠ .reset) (ha : e ≠ .assertReset) : WritesResultsOnSuccess s t := by
  have keep : WritesResultsOnSuccess s s := ⟨.inl rfl, .inl rfl⟩
  cases e with
  | reset => exact absurd rfl hr
  | assertReset => exact absurd rfl ha
  | releaseReset =>
    obtain rfl := Host.Outcome.next.inj h
    exact keep
  | read a w =>
    obtain ⟨_, _, ⟨_, rfl⟩ | ⟨_, rfl⟩⟩ := busRead_cases h <;> exact keep
  | write a w v =>
    obtain ⟨_, _, ⟨_, rfl⟩ | ⟨_, _, hw⟩ | ⟨_, _, rfl⟩⟩ := busWrite_cases h
    · exact keep
    · exact commandWrite_writesResultsOnSuccess hw
    · exact keep
  | tick l =>
    cases hheld : s.resetHeld with
    | true =>
      obtain rfl : s = t := by simpa [perform, tickEvent, hheld] using h
      exact keep
    | false =>
      have htick : tick l { s with ticks := s.ticks + 1 } = .next t := by
        simpa [perform, tickEvent, hheld] using h
      exact (tick_spec (s := { s with ticks := s.ticks + 1 }) hv htick).writesResultsOnSuccess

/-- Settles O40: a step performs the next input on a state whose registers are those before the step. -/
theorem resultRegistersAreWrittenOnlyOnSuccess : Obligations.ResultRegistersAreWrittenOnlyOnSuccess :=
  fun s _ hv h hr ha => perform_writesResultsOnSuccess (s := takeEvent s) hv h hr ha

end Sys2Proof.Machine
end

section
/-! PROOFS. When TIMEOUT is raised (spec/41_frame_decoder.md R81, spec/60_exceptions.md R91). -/
namespace Sys2Proof.Machine

/-- A hold that a sample ends goes on to the next hold, or ends its operation with another result than TIMEOUT. -/
theorem HoldEnd.not_timeout {s t : State} (h : HoldEnd s t) (hs : s.done = false) :
    ¬ (t.done = true ∧ t.result = .timeout) := by
  cases h with
  | presence | firstBit | highHold | nextBit => simp [hs]
  | frameGood | frameBad | measured => simp

/-- A tick ends an operation with TIMEOUT by `finish`, on a sample at the level of a hold that has reached its timeout
(R60, R91). -/
theorem TickEnd.timeout_cause {l : LineLevel} {s t : State} (h : TickEnd l s t) (hs : s.done = false)
    (ht : t.done = true ∧ t.result = .timeout) :
    t = finish .timeout s ∧ ∃ n, holdParams s = some (l, n) ∧ n.toNat ≤ s.cnt.toNat := by
  cases h with
  | timeout n hh hc => exact ⟨rfl, n, hh, Nat.le_of_lt_succ hc⟩
  | holdEnd _ _ _ _ _ he => exact absurd ht (he.not_timeout hs)
  | idle | wakeOver | wakeOn | reqOver | reqOn | count => simp [hs] at ht

/-- A hold belongs to a READ with fewer than 40 bits decoded or to a MEASURE (R91). -/
theorem hold_of_read_or_meas {s : State} {x : LineLevel × TickCount} (hi : Inv s) (h : holdParams s = some x) :
    (s.phase.isReadHold = true ∧ s.bitcnt.toNat ≤ 39) ∨ s.phase = .meas := by
  have hmem := mem_holdPhases_of_holdParams h
  have hbefore := hi.bitcnt_before
  have hbits := hi.bitcnt_bits
  cases hp : s.phase with
  | presL | presH =>
    rw [hp] at hbefore
    exact .inl ⟨rfl, by rw [hbefore rfl]; decide⟩
  | bitL | bitH =>
    rw [hp] at hbits
    exact .inl ⟨rfl, Nat.le_of_lt_succ (hbits rfl)⟩
  | meas => exact .inr rfl
  | idle | wake | req | reserved => simp [hp] at hmem

/-- Settles O46: under the invariant a count is never above its timeout, so a hold that has reached it is at it. -/
theorem timeoutsAreRaisedByHoldsOnly : Obligations.TimeoutsAreRaisedByHoldsOnly := by
  intro l s t hi ht
  have hcause (h : s.done = false ∧ t.done = true ∧ t.result = .timeout) :=
    (tick_spec hi.params.1 ht).timeout_cause h.1 h.2
  refine ⟨⟨fun h => ?raised, fun ⟨n, hh, hc⟩ => ?raises⟩, fun h => ?records⟩
  case raised =>
    obtain ⟨-, n, hh, hc⟩ := hcause h
    exact ⟨n, hh, BitVec.eq_of_toNat_eq (Nat.le_antisymm (hi.cnt_hold l n hh) hc)⟩
  case raises =>
    have hdone := hi.busy_not_done (busy_iff.mp (busy_of_holdParams hh))
    rw [tick_on_level hh, countSample_of_le (by rw [hc])] at ht
    obtain rfl := Host.Outcome.next.inj ht
    exact ⟨hdone, rfl, rfl⟩
  case records =>
    obtain ⟨rfl, n, hh, -⟩ := hcause h
    exact ⟨rfl, hold_of_read_or_meas hi hh⟩

end Sys2Proof.Machine
end

section
/-! PROOFS. Rejected commands and the ends of operations (spec/60_exceptions.md R93, R94). -/
namespace Sys2Proof.Machine

/-- READ is accepted in IDLE (R70). -/
theorem exec_read_of_idle {s : State} (hp : s.phase = .idle) : exec .read s = .next (acceptRead s) :=
  show execRead s = _ from if_pos hp

/-- MEASURE is accepted in IDLE (R63). -/
theorem exec_measure_of_idle {s : State} (level : LineLevel) (timeout : TickCount) (hp : s.phase = .idle) :
    exec (.measure level timeout) s = .next (acceptMeasure level timeout s) :=
  show execMeasure level timeout s = _ from if_pos hp

/-- A READ or MEASURE is rejected while an operation runs (R49, R93). -/
theorem exec_of_busy {i : Instr} {s : State} (hi : i ≠ .nop) (hp : s.phase ≠ .idle) :
    exec i s = .next (rejectCommand s) := by
  rcases exec_cases i s with ⟨hnop, _⟩ | ⟨_, _, he⟩ | ⟨_, hidle, _⟩ | ⟨_, _, _, hidle, _⟩
  · exact absurd hnop hi
  · exact he
  all_goals exact absurd hidle hp

/-- A command that is not rejected clears CMDERR (R26). -/
theorem exec_clears_cmderr {i : Instr} {s : State} (h : ¬ (s.phase ≠ .idle ∧ i ≠ .nop)) :
    ∃ t, exec i s = .next t ∧ t.cmderr = false := by
  rcases exec_cases i s with ⟨_, he⟩ | ⟨hi, hp, _⟩ | ⟨_, _, he⟩ | ⟨_, _, _, _, he⟩
  · exact ⟨_, he, rfl⟩
  · exact absurd ⟨hp, hi⟩ h
  all_goals exact ⟨_, he, rfl⟩

/-- Settles O11: a reserved word is rejected by its decoding, a READ or MEASURE by the phase it meets. -/
theorem rejectionsAndTheirCauses : Obligations.RejectionsAndTheirCauses := by
  intro v s
  refine ⟨?rejected, fun h => ?others⟩
  case rejected =>
    rintro (herr | ⟨hbusy, i, hd, hi⟩)
    · exact commandWrite_of_error herr s
    · exact (commandWrite_of_ok s hd).trans (exec_of_busy hi hbusy)
  case others =>
    obtain ⟨hdecodes, hidle⟩ := not_or.mp h
    rcases commandWrite_cases v s with ⟨herr, _⟩ | ⟨i, hd, hw⟩
    · exact absurd herr hdecodes
    · rw [hw]
      exact exec_clears_cmderr fun ⟨hbusy, hi⟩ => hidle ⟨hbusy, i, hd, hi⟩

/-- `t` is what `Finish` makes, with one of R90's results, of a state `u` in the phase of `s` (R94). What else `u`
shares with `s` is left open: a bit, a frame or a hold may be written before the end. -/
def FinishesOperation (s t : State) : Prop :=
  ∃ r u, (r = .ok ∨ r = .timeout ∨ r = .checksumError) ∧ t = finish r u ∧ u.phase = s.phase

/-- The end of a hold reaches IDLE only by `Finish`: every other one starts the next hold (R61, R76). -/
theorem HoldEnd.finishes {s t : State} (h : HoldEnd s t) (ht : t.phase = .idle) : FinishesOperation s t := by
  cases h with
  | presence | firstBit | highHold | nextBit => exact nomatch ht
  | frameGood => exact ⟨.ok, _, .inl rfl, rfl, rfl⟩
  | frameBad => exact ⟨.checksumError, _, .inr (.inr rfl), rfl, rfl⟩
  | measured => exact ⟨.ok, _, .inl rfl, rfl, rfl⟩

/-- A tick of a running operation reaches IDLE only by `Finish` (R94). -/
theorem TickEnd.finishes {l : LineLevel} {s t : State} (h : TickEnd l s t) (hs : s.phase ≠ .idle)
    (ht : t.phase = .idle) : FinishesOperation s t := by
  cases h with
  | idle hp => exact absurd hp hs
  | wakeOver | reqOver => exact nomatch ht
  | wakeOn | reqOn | count => exact absurd ht hs
  | timeout => exact ⟨.timeout, s, .inr (.inl rfl), rfl, rfl⟩
  | holdEnd _ _ _ _ _ he => exact he.finishes ht

/-- BUSY is bit 0 of STATUS (R18). -/
theorem statusWord_bit_zero (s : State) : (statusWord s).getLsbD 0 = s.busy := by
  simp only [statusWord, BitVec.getLsbD_or]
  simp (disch := omega) only [field_bit_outside, Bool.false_or]
  cases s.busy <;> rfl

/-- Settles O45: whatever ended the operation, `Finish` left IDLE, where READ and MEASURE are accepted. -/
theorem everyEndLeavesTheIdleState : Obligations.EveryEndLeavesTheIdleState := by
  intro l s t hv hs h ht
  obtain ⟨r, u, hr, rfl, hu⟩ := (tick_spec hv h).finishes hs ht
  exact ⟨rfl, hr, hu, rfl, rfl, rfl, statusWord_bit_zero _, ⟨_, exec_read_of_idle rfl, rfl⟩,
    fun level timeout => ⟨_, exec_measure_of_idle level timeout rfl, rfl⟩⟩

end Sys2Proof.Machine
end

section
/-! PROOFS. A reset (spec/70_reset_and_hazards.md R111): the state it answers, in place of an operation or in IDLE. -/
namespace Sys2Proof.Machine

section
variable (s : State)

/-- A register reads 0 after a reset: it shows nothing of what a reset keeps (R27, R29). -/
theorem readReg_resetDevice (r : Reg) : readReg (resetDevice s) r = 0 := by
  have hsame : readReg (resetDevice s) r = readReg (State.resetWith s.par) r := by cases r <;> rfl
  exact hsame.trans (readReg_resetWith s.par r)

/-- The SWPD releases the line at a reset (R111). -/
theorem lineDrive_resetDevice : lineDrive (resetDevice s) = none := rfl

/-- No operation goes on after a reset: a tick finds IDLE (R111). -/
theorem tick_resetDevice (l : LineLevel) : tick l (resetDevice s) = .next (resetDevice s) :=
  tick_idle (resetDevice_phase s)

end

/-- Settles O49: a reset answers `resetDevice`, whatever the phase it meets. -/
theorem resetAbandonsEverything : Obligations.ResetAbandonsEverything := fun s =>
  ⟨resetDevice s, rfl, resetDevice_par s, rfl, resetDevice_done s, resetDevice_result s, lineDrive_resetDevice s,
    readReg_resetDevice s, tick_resetDevice s⟩

end Sys2Proof.Machine
end

section
/-! PROOFS. The command word and its decoder (spec/30_encoding.md R45 to R51): a command's fields, that decoding and
encoding are inverse, and how many words each command has. -/
namespace Sys2Proof

/-! The fields of an encoded MEASURE (R45). -/
section
variable (l : LineLevel) (n : TickCount)

theorem fieldOp_encode_measure : fieldOp (encode (.measure l n)) = 0x2 := by
  show BitVec.extractLsb' (n := 16 + 7 + 1 + 4 + 4) 0 4 (n ++ 0#7 ++ l.bit ++ 0#4 ++ 0x2#4) = _
  rw [BitVec.extractLsb'_append_eq_of_add_le (by decide)]
  rfl

theorem fieldReservedLow_encode_measure : fieldReservedLow (encode (.measure l n)) = 0 := by
  show BitVec.extractLsb' (n := 16 + 7 + 1 + 4 + 4) 4 4 (n ++ 0#7 ++ l.bit ++ 0#4 ++ 0x2#4) = _
  rw [BitVec.extractLsb'_append_eq_of_le (by decide), BitVec.extractLsb'_append_eq_of_add_le (by decide)]
  rfl

theorem fieldReservedHigh_encode_measure : fieldReservedHigh (encode (.measure l n)) = 0 := by
  show BitVec.extractLsb' (n := 16 + 7 + 1 + 4 + 4) 9 7 (n ++ 0#7 ++ l.bit ++ 0#4 ++ 0x2#4) = _
  iterate 3 rw [BitVec.extractLsb'_append_eq_of_le (by decide)]
  rw [BitVec.extractLsb'_append_eq_of_add_le (by decide)]
  rfl

theorem fieldTimeout_encode_measure : fieldTimeout (encode (.measure l n)) = n := by
  show BitVec.extractLsb' (n := 16 + 7 + 1 + 4 + 4) 16 16 (n ++ 0#7 ++ l.bit ++ 0#4 ++ 0x2#4) = _
  iterate 4 rw [BitVec.extractLsb'_append_eq_of_le (by decide)]
  exact BitVec.extractLsb'_eq_self

theorem fieldLevel_encode_measure : fieldLevel (encode (.measure l n)) = l := by
  rw [fieldLevel, encode_measure_bit]
  cases l <;> rfl

end

/-- Decoding gives an encoded command back. -/
theorem decode_encode (i : Instr) : decode (encode i) = .ok i := by
  cases i with
  | nop => decide
  | read => decide
  | measure l n =>
    rw [decode_measure (fieldReservedLow_encode_measure l n) (fieldReservedHigh_encode_measure l n)
      (fieldOp_encode_measure l n), fieldLevel_encode_measure, fieldTimeout_encode_measure]

theorem LineLevel.bit_ofBool (b : Bool) : (LineLevel.ofBool b).bit = BitVec.ofBool b := by cases b <;> rfl

/-- LEVEL is bit 8 of the word (R47). -/
theorem bit_fieldLevel (v : Word) : (fieldLevel v).bit = v.extractLsb' 8 1 := by
  rw [fieldLevel, LineLevel.bit_ofBool]
  apply BitVec.eq_of_getLsbD_eq
  intro i hi
  obtain rfl : i = 0 := by omega
  simp

/-- A word with R49's tests for a MEASURE is its own fields put together again. -/
theorem encode_measure_fields {v : Word} (hlow : fieldReservedLow v = 0) (hhigh : fieldReservedHigh v = 0)
    (hop : fieldOp v = 0x2) : encode (.measure (fieldLevel v) (fieldTimeout v)) = v := by
  have hword : fieldTimeout v ++ fieldReservedHigh v ++ v.extractLsb' 8 1 ++ fieldReservedLow v ++ fieldOp v = v := by
    unfold fieldTimeout fieldReservedHigh fieldReservedLow fieldOp
    rw [BitVec.extractLsb'_append_extractLsb'_eq_extractLsb' (by rfl),
      BitVec.extractLsb'_append_extractLsb'_eq_extractLsb' (by rfl),
      BitVec.extractLsb'_append_extractLsb'_eq_extractLsb' (by rfl),
      BitVec.extractLsb'_append_extractLsb'_eq_extractLsb' (by rfl)]
    exact BitVec.extractLsb'_eq_self
  rw [hlow, hhigh, hop, ← bit_fieldLevel] at hword
  exact hword

/-- A word that decodes is its command's word. -/
theorem encode_of_decode {v : Word} {i : Instr} (h : decode v = .ok i) : encode i = v := by
  by_cases h0 : v = 0
  · subst h0
    cases (show decode 0 = .ok .nop by decide).symm.trans h
    rfl
  by_cases h1 : v = 1
  · subst h1
    cases (show decode 1 = .ok .read by decide).symm.trans h
    rfl
  have hm : fieldReservedLow v = 0 ∧ fieldReservedHigh v = 0 ∧ fieldOp v = 0x2 := by
    by_contra hm
    obtain ⟨e, he⟩ := decode_error_iff.mpr ⟨h0, h1, hm⟩
    exact nomatch he.symm.trans h
  obtain ⟨hlow, hhigh, hop⟩ := hm
  cases (decode_measure hlow hhigh hop).symm.trans h
  exact encode_measure_fields hlow hhigh hop

/-- Settles O2: every `Instr` is well formed, and a word that is neither NOP's nor READ's decodes only by R49's tests
for a MEASURE, which fix every bit outside its operands. -/
theorem decodeInvertsEncode : Obligations.DecodeInvertsEncode :=
  ⟨fun i _ => decode_encode i, fun _ _ => encode_of_decode⟩

theorem decode_eq_ok_iff {v : Word} {i : Instr} : decode v = .ok i ↔ v = encode i :=
  ⟨fun h => (encode_of_decode h).symm, fun h => h ▸ decode_encode i⟩

/-- Settles O1: accepted words are encoded commands, and the reserved ones fail one test of R49 each. -/
theorem sampleWordsDecode : Obligations.SampleWordsDecode :=
  ⟨decode_encode .nop, decode_encode .read, decode_encode (.measure .high 10), decode_encode (.measure .low 10),
    decode_encode (.measure .high 65535), decode_encode (.measure .low 0), by decide, by decide, by decide, by decide,
    by decide⟩

/-- Each of MEASURE's 2 levels and 65536 timeouts has a word of its own (R51). -/
theorem ncard_measure_words :
    {v : Word | ∃ level timeout, decode v = .ok (.measure level timeout)}.ncard = 131072 := by
  have hset : {v : Word | ∃ level timeout, decode v = .ok (.measure level timeout)} =
      Set.range fun x : Bool × TickCount => encode (.measure (.ofBool x.1) x.2) := by
    ext v
    constructor
    · rintro ⟨level, timeout, h⟩
      refine ⟨(level.bit.getLsbD 0, timeout), ?_⟩
      show encode (.measure (.ofBool (level.bit.getLsbD 0)) timeout) = v
      rw [LineLevel.ofBool_bit, encode_of_decode h]
    · rintro ⟨x, rfl⟩
      exact ⟨_, _, decode_encode _⟩
  have hinj : Function.Injective fun x : Bool × TickCount => encode (.measure (.ofBool x.1) x.2) := by
    rintro ⟨a, m⟩ ⟨b, n⟩ h
    have hi := Except.ok.inj ((decode_encode _).symm.trans ((congrArg decode h).trans (decode_encode _)))
    obtain ⟨hl, rfl⟩ := Instr.measure.inj hi
    cases a <;> cases b <;> simp [LineLevel.ofBool] at hl ⊢
  rw [hset, Set.ncard_range_of_injective hinj, Nat.card_prod, Nat.card_congr (BitVec.equivFin (m := 16)).toEquiv]
  simp

/-- A word is reserved when it is no command's (R50). -/
theorem decode_error_iff_forall {v : Word} : (∃ e, decode v = .error e) ↔ ∀ i, v ≠ encode i := by
  constructor
  · rintro ⟨e, he⟩ i hi
    exact nomatch he.symm.trans (decode_eq_ok_iff.mpr hi)
  · intro h
    cases hd : decode v with
    | error e => exact ⟨e, rfl⟩
    | ok i => exact absurd (decode_eq_ok_iff.mp hd) (h i)

/-- Settles O4: NOP and READ have one word each, and the reserved words are those of no command. -/
theorem commandWordCounts : Obligations.CommandWordCounts := by
  have hnop : {v : Word | decode v = .ok .nop} = {encode .nop} := Set.ext fun _ => decode_eq_ok_iff
  have hread : {v : Word | decode v = .ok .read} = {encode .read} := Set.ext fun _ => decode_eq_ok_iff
  refine ⟨hnop ▸ Set.ncard_singleton _, hread ▸ Set.ncard_singleton _, ncard_measure_words, ?_⟩
  have hreserved : {v : Word | ∃ e, decode v = .error e} = (insert (encode .nop) (insert (encode .read)
      {v : Word | ∃ level timeout, decode v = .ok (.measure level timeout)}))ᶜ := by
    ext v
    simp only [Set.mem_ofPred_eq, Set.mem_compl_iff, Set.mem_insert_iff, not_or, not_exists, decode_eq_ok_iff,
      decode_error_iff_forall]
    refine ⟨fun h => ⟨h .nop, h .read, fun level timeout => h _⟩, fun ⟨hn, hr, hm⟩ i => ?_⟩
    cases i with
    | nop => exact hn
    | read => exact hr
    | measure level timeout => exact hm level timeout
  have hne : encode .nop ≠ encode .read := by decide
  rw [hreserved, Set.ncard_compl, Set.ncard_insert_of_notMem, Set.ncard_insert_of_notMem, ncard_measure_words,
    Nat.card_congr (BitVec.equivFin (m := 32)).toEquiv, Nat.card_fin]
  · simp [decode_encode]
  · simp [decode_encode, hne]

/-- A field of a word is the field of the masked word where the mask is all ones. -/
theorem extractLsb'_eq_of_mask {v m : Word} {k len : Nat} (h : m.extractLsb' k len = BitVec.allOnes len) :
    v.extractLsb' k len = (v &&& m).extractLsb' k len := by
  rw [BitVec.extractLsb'_and, h, BitVec.and_allOnes]

/-- The words of MEASURE are those with its row's match under its row's mask (R45, R46). -/
theorem measure_mask_iff {v : Word} :
    (∃ level timeout, decode v = .ok (.measure level timeout)) ↔ v &&& 0x0000FEFF = 0x00000002 := by
  constructor
  · rintro ⟨level, timeout, h⟩
    rw [decode_eq_ok_iff.mp h]
    exact (Laws.TableRow.measure level timeout).2
  · intro h
    have hlow : fieldReservedLow v = 0 := (extractLsb'_eq_of_mask (m := 0x0000FEFF) rfl).trans (by rw [h]; rfl)
    have hhigh : fieldReservedHigh v = 0 := (extractLsb'_eq_of_mask (m := 0x0000FEFF) rfl).trans (by rw [h]; rfl)
    have hop : fieldOp v = 0x2 := (extractLsb'_eq_of_mask (m := 0x0000FEFF) rfl).trans (by rw [h]; rfl)
    exact ⟨_, _, decode_measure hlow hhigh hop⟩

/-- Settles O6: the rows of NOP and READ fix the whole word, and MEASURE's leaves LEVEL and TIMEOUT free. -/
theorem decodingFollowsTheOpcodeTable : Obligations.DecodingFollowsTheOpcodeTable := by
  intro v
  have hall : v &&& 0xFFFFFFFF = v := BitVec.and_allOnes
  rw [hall]
  refine ⟨decode_eq_ok_iff, decode_eq_ok_iff, measure_mask_iff, fun level timeout h => ?_⟩
  obtain rfl := decode_eq_ok_iff.mp h
  rw [← bit_fieldLevel, fieldLevel_encode_measure]
  exact ⟨rfl, (fieldTimeout_encode_measure level timeout).symm⟩

end Sys2Proof
end

section
/-! PROOFS. The invariant (spec/10_state.md sections 3 to 7, spec/60_exceptions.md R90 to R95): it holds after reset,
and every input keeps it. -/
namespace Sys2Proof.Machine

/-- The result registers hold one frame that passed its checksum, and a hold of 16 bits (R21 to R23, R95). -/
structure ResultRegistersOk (s : State) : Prop where
  frame_checked : s.frame1 = (checksum (s.frame0.extractLsb' 24 8) (s.frame0.extractLsb' 16 8)
    (s.frame0.extractLsb' 8 8) (s.frame0.extractLsb' 0 8)).zeroExtend 32
  hum_of_frame : s.hum = (s.frame0.extractLsb' 16 16).zeroExtend 32
  temp_of_frame : s.temp = temperatureWord (s.frame0.extractLsb' 8 8) (s.frame0.extractLsb' 0 8)
  hold_range : s.hold.toNat < 65536

/-- The zeros of reset pass the checksum (R27). -/
theorem resultRegistersOk_reset : ResultRegistersOk State.reset := ⟨by decide, by decide, by decide, by decide⟩

theorem Inv.resultRegistersOk {s : State} (h : Inv s) : ResultRegistersOk s :=
  { h with }

/-- The state a reset leaves meets the invariant, reset held or not (R27, R110). -/
theorem inv_resetDevice {s : State} (hv : s.par.Valid) (held : Bool) :
    Inv { resetDevice s with resetHeld := held } :=
  { resultRegistersOk_reset with
    params := hv
    phase_named := rfl
    endph_hold := .inl rfl
    result_named := nofun
    result_needs_done := fun _ => rfl
    busy_not_done := fun _ => rfl
    cnt_idle := fun _ => rfl
    cnt_wake := nofun
    cnt_req := nofun
    cnt_hold := nofun
    cnt_started := nofun
    line_enabled := rfl
    line_level := rfl
    bitcnt_range := Nat.zero_le _
    bitcnt_before := nofun
    bitcnt_bits := nofun
    shreg_fill := nofun
    ended_ok := nofun
    ended_timeout := nofun
    ended_checksum := nofun
    held_in_reset := by rintro (rfl : held = true); rfl }

/-- Settles O51: the reset state is what a reset makes of itself, and the defaults are valid. -/
theorem theInvariantHoldsAtReset : Obligations.TheInvariantHoldsAtReset :=
  have h (p : Params) (hv : p.Valid) : Inv (State.resetWith p) := inv_resetDevice (s := State.resetWith p) hv false
  ⟨h, h Params.default (by decide)⟩

theorem Phase.ne_of_isReadHold {p : Phase} (hp : p.isReadHold = true) :
    p ≠ .idle ∧ p ≠ .wake ∧ p ≠ .req ∧ p.isReserved = false := by
  cases p with
  | presL | presH | bitL | bitH => decide
  | idle | wake | req | meas | reserved => exact nomatch hp

theorem Phase.isRead_of_isBeforeBits {p : Phase} (hp : p.isBeforeBits = true) : p.isRead = true := by
  cases p with
  | wake | req | presL | presH => rfl
  | idle | bitL | bitH | meas | reserved => exact nomatch hp

/-- Every timeout parameter is at least 1 (R5). -/
theorem one_le_timeout {s : State} {p : Phase} {l : LineLevel} {n : TickCount} (hv : s.par.InRange)
    (hp : p.isReadHold = true) (h : holdParams (startHold p s) = some (l, n)) : 1 ≤ n.toNat := by
  obtain ⟨-, -, hpresL, hpresH, hbitL, hbitH, -, -⟩ := hv
  cases p with
  | presL => cases h; exact hpresL
  | presH => cases h; exact hpresH
  | bitL => cases h; exact hbitL
  | bitH => cases h; exact hbitH
  | idle | wake | req | meas | reserved => exact nomatch hp

section
variable {s : State} (h : Inv s)
include h

/-- The agents' data may be anything, reset held or not. -/
theorem Inv.withAgents (es : List Event) (ws : List Word) (n : Nat) :
    Inv { s with inbox := es, hostReads := ws, ticks := n } :=
  { h with
    held_in_reset := fun hh => congrArg
      (fun u : State => { u with inbox := es, hostReads := ws, ticks := n }) (h.held_in_reset hh) }

/-- CMDERR may be anything, reset not held. -/
theorem Inv.withCmderr (hheld : s.resetHeld = false) (c : Bool) : Inv { s with cmderr := c } :=
  { h with held_in_reset := fun hh => nomatch hheld.symm.trans hh }

/-- The release of the reset input leaves the reset state (R110). -/
theorem Inv.release : Inv { s with resetHeld := false } := by
  cases hheld : s.resetHeld with
  | false => exact { h with held_in_reset := nofun }
  | true =>
    rw [h.held_in_reset hheld]
    exact inv_resetDevice h.params false

/-- A block held in reset runs no operation (R110). -/
theorem Inv.not_held_of_busy (hp : s.phase ≠ .idle) : s.resetHeld = false := by
  by_contra hheld
  rw [Bool.not_eq_false] at hheld
  exact hp ((congrArg State.phase (h.held_in_reset hheld)).trans rfl)

/-- The acceptance of READ starts WAKE with nothing counted and nothing decoded (R70). -/
theorem Inv.acceptRead (hheld : s.resetHeld = false) : Inv (acceptRead s) :=
  have hwake : 0 < s.par.tWake.toNat := by have := h.params.1.1; omega
  { h with
    phase_named := rfl
    result_named := nofun
    result_needs_done := fun _ => rfl
    busy_not_done := fun _ => rfl
    cnt_idle := nofun
    cnt_wake := fun _ => hwake
    cnt_req := nofun
    cnt_hold := nofun
    cnt_started := nofun
    line_enabled := rfl
    line_level := rfl
    bitcnt_range := Nat.zero_le _
    bitcnt_before := fun _ => rfl
    bitcnt_bits := nofun
    shreg_fill := fun _ => Nat.one_pos
    ended_ok := nofun
    ended_timeout := nofun
    ended_checksum := nofun
    held_in_reset := fun hh => nomatch hheld.symm.trans hh }

/-- The acceptance of MEASURE starts its hold with nothing counted (R63). -/
theorem Inv.acceptMeasure (hheld : s.resetHeld = false) (hp : s.phase = .idle) (l : LineLevel) (n : TickCount) :
    Inv (acceptMeasure l n s) :=
  { h with
    phase_named := rfl
    result_named := nofun
    result_needs_done := fun _ => rfl
    busy_not_done := fun _ => rfl
    cnt_idle := nofun
    cnt_wake := nofun
    cnt_req := nofun
    cnt_hold := fun _ _ _ => Nat.zero_le _
    cnt_started := nofun
    line_enabled := h.line_enabled.trans (by rw [hp]; rfl)
    line_level := h.line_level.trans (by rw [hp]; rfl)
    bitcnt_before := nofun
    bitcnt_bits := nofun
    shreg_fill := nofun
    ended_ok := nofun
    ended_timeout := nofun
    ended_checksum := nofun
    held_in_reset := fun hh => nomatch hheld.symm.trans hh }

/-- A command keeps the invariant, accepted or rejected. -/
theorem Inv.exec {i : Instr} {t : State} (hheld : s.resetHeld = false) (ht : Machine.exec i s = .next t) : Inv t := by
  rcases exec_cases i s with ⟨_, he⟩ | ⟨_, _, he⟩ | ⟨_, _, he⟩ | ⟨l, n, _, hp, he⟩ <;>
    obtain rfl := Host.Outcome.next.inj (he.symm.trans ht)
  · exact h.withCmderr hheld false
  · exact h.withCmderr hheld true
  · exact h.acceptRead hheld
  · exact h.acceptMeasure hheld hp l n

theorem Inv.commandWrite {v : Word} {t : State} (hheld : s.resetHeld = false)
    (ht : Machine.commandWrite v s = .next t) : Inv t := by
  rcases commandWrite_cases v s with ⟨_, he⟩ | ⟨i, _, he⟩ <;> rw [he] at ht
  · obtain rfl := Host.Outcome.next.inj ht
    exact h.withCmderr hheld true
  · exact h.exec hheld ht

/-- A running operation has counted to `c`, within its phase's bound. -/
theorem Inv.withCount {c : TickCount} (hp : s.phase ≠ .idle) (h1 : 1 ≤ c.toNat)
    (hwake : s.phase = .wake → c.toNat < s.par.tWake.toNat) (hreq : s.phase = .req → c.toNat < s.par.tReq.toNat)
    (hhold : ∀ l n, holdParams s = some (l, n) → c.toNat ≤ n.toNat) : Inv { s with cnt := c } :=
  { h with
    cnt_idle := fun hidle => absurd hidle hp
    cnt_wake := hwake
    cnt_req := hreq
    cnt_hold := hhold
    cnt_started := fun _ => h1
    held_in_reset := fun hh => nomatch (h.not_held_of_busy hp).symm.trans hh }

/-- WAKE's last tick enters REQ (R71). -/
theorem Inv.enterReq (hp : s.phase = .wake) : Inv { s with lineOut := .high, cnt := 0, phase := .req } :=
  have hbusy : s.phase ≠ .idle := by rw [hp]; decide
  { h with
    phase_named := rfl
    busy_not_done := fun _ => h.busy_not_done hbusy
    cnt_idle := nofun
    cnt_wake := nofun
    cnt_req := fun _ => h.params.1.2.1
    cnt_hold := nofun
    cnt_started := nofun
    line_enabled := h.line_enabled.trans (by rw [hp]; rfl)
    line_level := rfl
    bitcnt_before := fun _ => h.bitcnt_before (by rw [hp]; rfl)
    bitcnt_bits := nofun
    shreg_fill := fun _ => h.shreg_fill (by rw [hp]; rfl)
    held_in_reset := fun hh => nomatch (h.not_held_of_busy hbusy).symm.trans hh }

/-- A READ in progress enters the hold phase `p` with `c` samples counted, `k` bits decoded and the line released. -/
theorem Inv.enterHold {p : Phase} {c : TickCount} {k : BitVec 6} {f : BitVec 40} {oe : Bool} {o : LineLevel}
    (hbusy : s.phase ≠ .idle) (hp : p.isReadHold = true)
    (hc : ∀ l n, holdParams (startHold p s) = some (l, n) → c.toNat ≤ n.toNat) (h1 : p = .presL ∨ 1 ≤ c.toNat)
    (hbits : k.toNat < 40) (hbefore : p.isBeforeBits = true → k = 0) (hf : f.toNat < 2 ^ k.toNat)
    (hoe : oe = false) (ho : o = .low) :
    Inv { s with phase := p, cnt := c, bitcnt := k, shreg := f, lineOe := oe, lineOut := o } := by
  obtain ⟨hidle, hwake, hreq, hnamed⟩ := Phase.ne_of_isReadHold hp
  exact
  { h with
    phase_named := hnamed
    busy_not_done := fun _ => h.busy_not_done hbusy
    cnt_idle := fun hh => absurd hh hidle
    cnt_wake := fun hh => absurd hh hwake
    cnt_req := fun hh => absurd hh hreq
    cnt_hold := hc
    cnt_started := fun hh => h1.resolve_left (by rintro rfl; exact nomatch hh)
    line_enabled := by simp [hoe, hwake, hreq]
    line_level := by simp [ho, hreq]
    bitcnt_range := hbits.le
    bitcnt_before := hbefore
    bitcnt_bits := fun _ => hbits
    shreg_fill := fun _ => hf
    ended_ok := fun hd => nomatch (h.busy_not_done hbusy).symm.trans hd
    ended_timeout := fun hd => nomatch (h.busy_not_done hbusy).symm.trans hd
    ended_checksum := fun hd => nomatch (h.busy_not_done hbusy).symm.trans hd
    held_in_reset := fun hh => nomatch (h.not_held_of_busy hbusy).symm.trans hh }

end

/-- A field of a field of a word. -/
theorem extractLsb'_extractLsb' {w i n k m : Nat} (x : BitVec w) (h : k + m ≤ n) :
    (x.extractLsb' i n).extractLsb' k m = x.extractLsb' (i + k) m := by
  ext j hj
  simp only [BitVec.getElem_extractLsb', BitVec.getLsbD_extractLsb', Nat.add_assoc]
  simp [show k + j < n by omega]

/-- A frame that passed its checksum is published whole (R78, R79). -/
theorem commit_resultRegistersOk {s : State} (hold : s.hold.toNat < 65536) (hok : frameOk s.shreg = true) :
    ResultRegistersOk (commit s) := by
  have h0 : (commit s).frame0 = s.shreg.extractLsb' 8 32 := frame0Word_frameBytes s.shreg
  have hbyte (k : Nat) (hk : k + 8 ≤ 32) := extractLsb'_extractLsb' (i := 8) s.shreg hk
  have hsum : frameByte4 s.shreg = _ := beq_iff_eq.mp hok
  refine ⟨?_, ?_, ?_, hold⟩ <;> rw [h0]
  · rw [hbyte 24 (by decide), hbyte 16 (by decide), hbyte 8 (by decide), hbyte 0 (by decide)]
    exact congrArg (BitVec.zeroExtend 32) hsum
  · rw [extractLsb'_extractLsb' _ (by decide)]
    exact humidityWord_frameBytes s.shreg
  · rw [hbyte 8 (by decide), hbyte 0 (by decide)]
    rfl

/-- How an operation in `u`'s phase may end (R90 to R92). -/
def MayEndWith (u : State) : Result → Prop
  | .ok => (u.phase = .bitH ∧ u.bitcnt = 40) ∨ u.phase = .meas
  | .timeout => (u.phase.isReadHold = true ∧ u.bitcnt.toNat ≤ 39) ∨ u.phase = .meas
  | .checksumError => u.phase = .bitH ∧ u.bitcnt = 40
  | .reserved => False

/-- `Finish` leaves a state that meets the invariant, whatever the operation had counted (R94). -/
theorem inv_finish {u : State} {r : Result} (hv : u.par.Valid) (hheld : u.resetHeld = false)
    (hp : u.phase.isReadHold = true ∨ u.phase = .meas) (hk : u.bitcnt.toNat ≤ 40) (hr : MayEndWith u r)
    (hregs : ResultRegistersOk u) : Inv (finish r u) :=
  { hregs with
    params := hv
    phase_named := rfl
    endph_hold := .inr hp
    result_named := by rintro rfl; exact hr
    result_needs_done := nofun
    busy_not_done := fun hne => absurd rfl hne
    cnt_idle := fun _ => rfl
    cnt_wake := nofun
    cnt_req := nofun
    cnt_hold := nofun
    cnt_started := nofun
    line_enabled := rfl
    line_level := rfl
    bitcnt_range := hk
    bitcnt_before := nofun
    bitcnt_bits := nofun
    shreg_fill := nofun
    ended_ok := by rintro _ rfl; exact hr
    ended_timeout := by rintro _ rfl; exact hr
    ended_checksum := by rintro _ rfl; exact hr
    held_in_reset := fun hh => nomatch hheld.symm.trans hh }

section
variable {s : State} (h : Inv s)
include h

/-- A READ's next hold starts with count 1 and `k` bits decoded, the line still released (R61). -/
theorem Inv.nextHold {p : Phase} (k : BitVec 6) (f : BitVec 40) (hs : s.phase.isReadHold = true)
    (hp : p.isReadHold = true) (hbits : k.toNat < 40) (hbefore : p.isBeforeBits = true → k = 0)
    (hf : f.toNat < 2 ^ k.toNat) : Inv { s with phase := p, cnt := 1, bitcnt := k, shreg := f } := by
  obtain ⟨hidle, hwake, hreq, -⟩ := Phase.ne_of_isReadHold hs
  exact h.enterHold hidle hp (fun _ _ hh => one_le_timeout h.params.1 hp hh) (.inr (by decide)) hbits hbefore hf
    (by rw [h.line_enabled]; simp [hwake, hreq]) (by rw [h.line_level]; simp [hreq])

/-- No bit is decoded before the presence pulse has ended, and none is left over (R70, R77). -/
theorem Inv.before_bits (hp : s.phase.isBeforeBits = true) : s.bitcnt = 0 ∧ s.shreg.toNat < 2 ^ s.bitcnt.toNat :=
  ⟨h.bitcnt_before hp, h.shreg_fill (Phase.isRead_of_isBeforeBits hp)⟩

/-- The sample that ends a hold keeps the invariant: the next hold begins with count 1, or the operation ends. -/
theorem Inv.holdEnd {t : State} (he : HoldEnd s t) : Inv t := by
  cases he with
  | presence hp =>
    obtain ⟨hk, hf⟩ := h.before_bits (hp ▸ rfl)
    exact h.nextHold s.bitcnt s.shreg (hp ▸ rfl) rfl (by rw [hk]; decide) (fun _ => hk) hf
  | firstBit hp =>
    obtain ⟨hk, hf⟩ := h.before_bits (hp ▸ rfl)
    exact h.nextHold s.bitcnt s.shreg (hp ▸ rfl) rfl (by rw [hk]; decide) nofun hf
  | highHold hp =>
    exact h.nextHold s.bitcnt s.shreg (hp ▸ rfl) rfl (h.bitcnt_bits (hp ▸ rfl)) nofun (h.shreg_fill (hp ▸ rfl))
  | nextBit hp more =>
    have hk := h.bitcnt_bits (hp ▸ rfl)
    have hf := h.shreg_fill (hp ▸ rfl)
    have hsucc : (s.bitcnt + 1).toNat = s.bitcnt.toNat + 1 := by bv_omega
    have hne : s.bitcnt.toNat ≠ 39 := mt (bitcnt_succ_eq_forty_iff _).mpr more
    refine h.nextHold (s.bitcnt + 1) (shiftIn s.shreg (bitOfCount s.par s.cnt)) (hp ▸ rfl) rfl (by omega) nofun ?_
    have hb := (bitOfCount s.par s.cnt).toNat_lt
    rw [hsucc, pow_succ, toNat_shiftIn]
    omega
  | frameGood hp last good =>
    have hheld := h.not_held_of_busy (by rw [hp]; decide)
    have hk : (takeBit s.cnt s).bitcnt = 40 := last
    exact inv_finish h.params hheld (.inl (hp ▸ rfl)) (hk ▸ by decide) (.inl ⟨hp, last⟩)
      (commit_resultRegistersOk h.hold_range good)
  | frameBad hp last bad =>
    have hheld := h.not_held_of_busy (by rw [hp]; decide)
    have hk : (takeBit s.cnt s).bitcnt = 40 := last
    exact inv_finish h.params hheld (.inl (hp ▸ rfl)) (by rw [hk]; decide) ⟨hp, last⟩ { h with }
  | measured hp =>
    have hheld := h.not_held_of_busy (by rw [hp]; decide)
    have hhold : (s.cnt.zeroExtend 32).toNat < 65536 := by rw [BitVec.toNat_setWidth]; omega
    exact inv_finish h.params hheld (.inr hp) h.bitcnt_range (.inr hp) { h with hold_range := hhold }

/-- A tick keeps the invariant. -/
theorem Inv.tick {l : LineLevel} {t : State} (ht : Machine.tick l s = .next t) : Inv t := by
  cases tick_spec h.params.1 ht with
  | idle => exact h
  | wakeOver hp c => exact h.enterReq hp
  | wakeOn hp c =>
    have hc := h.cnt_wake hp
    have hsucc : (s.cnt + 1).toNat = s.cnt.toNat + 1 := toNat_succ (by omega)
    have hne : (s.cnt + 1).toNat ≠ s.par.tWake.toNat := mt BitVec.eq_of_toNat_eq c
    exact h.withCount (by rw [hp]; decide) (by omega) (fun _ => by omega) (fun hq => nomatch hp.symm.trans hq)
      (fun l n hh => by simp [holdParams, hp] at hh)
  | reqOver hp c =>
    obtain ⟨hk, hf⟩ := h.before_bits (hp ▸ rfl)
    exact h.enterHold (p := .presL) (by rw [hp]; decide) rfl (fun _ _ _ => Nat.zero_le _) (.inl rfl)
      (by rw [hk]; decide) (fun _ => hk) hf rfl rfl
  | reqOn hp c =>
    have hc := h.cnt_req hp
    have hsucc : (s.cnt + 1).toNat = s.cnt.toNat + 1 := toNat_succ (by omega)
    have hne : (s.cnt + 1).toNat ≠ s.par.tReq.toNat := mt BitVec.eq_of_toNat_eq c
    exact h.withCount (by rw [hp]; decide) (by omega) (fun hq => nomatch hp.symm.trans hq) (fun _ => by omega)
      (fun l n hh => by simp [holdParams, hp] at hh)
  | timeout n hh c =>
    have hcause := hold_of_read_or_meas h hh
    exact inv_finish h.params (h.not_held_of_busy (busy_iff.mp (busy_of_holdParams hh))) (hcause.imp_left And.left)
      h.bitcnt_range hcause h.resultRegistersOk
  | count n hh c nowrap =>
    exact h.withCount (busy_iff.mp (busy_of_holdParams hh)) (by omega)
      (fun hp => by simp [holdParams, hp] at hh) (fun hp => by simp [holdParams, hp] at hh)
      (fun l' n' hh' => by cases hh.symm.trans hh'; omega)
  | holdEnd e n t hh ne he => exact h.holdEnd he

/-- Every input keeps the invariant. -/
theorem Inv.perform {e : Event} {t : State} (ht : Machine.perform e s = .next t) : Inv t := by
  cases e with
  | reset =>
    obtain rfl := Host.Outcome.next.inj ht
    exact inv_resetDevice h.params false
  | assertReset =>
    obtain rfl := Host.Outcome.next.inj ht
    exact inv_resetDevice h.params true
  | releaseReset =>
    obtain rfl := Host.Outcome.next.inj ht
    exact h.release
  | read a w =>
    obtain ⟨_, _, ⟨_, rfl⟩ | ⟨_, rfl⟩⟩ := busRead_cases ht <;> exact h.withAgents _ _ _
  | write a w v =>
    obtain ⟨_, _, ⟨_, rfl⟩ | ⟨hheld, _, hw⟩ | ⟨_, _, rfl⟩⟩ := busWrite_cases ht
    · exact h
    · exact h.commandWrite hheld hw
    · exact h
  | tick l =>
    simp only [Machine.perform, tickEvent] at ht
    split at ht
    · obtain rfl := Host.Outcome.next.inj ht
      exact h
    · exact (h.withAgents _ _ _).tick ht

end

/-- Settles O52: a step performs one input, and every input keeps the invariant. -/
theorem everyStepKeepsTheInvariant : Obligations.EveryStepKeepsTheInvariant :=
  fun s _ h ht => (h.withAgents s.inbox.tail s.hostReads s.ticks).perform ht

end Sys2Proof.Machine
end

section
/-! PROOFS. Which accesses the window answers (spec/20_memory.md R31), and one step: what it runs, what can stop it
(spec/93_implementation_defined.md I11), the line driver after it (spec/10_state.md R17), and a reset that is held
(spec/70_reset_and_hazards.md R110). -/
namespace Sys2Proof.Machine

/-- The window ends with the register at offset 0x1C. -/
theorem Reg.ofOffset_le {off : Nat} {r : Reg} (h : Reg.ofOffset off = some r) : off ≤ 0x1C := by
  unfold Reg.ofOffset at h
  split at h
  case h_9 => exact nomatch h
  all_goals decide

/-- Every multiple of 4 in the window is the offset of a register. -/
theorem Reg.ofOffset_exists {off : Nat} (h4 : off % 4 = 0) (hle : off ≤ 0x1C) : ∃ r, Reg.ofOffset off = some r := by
  obtain ⟨k, hk, rfl⟩ : ∃ k, k < 8 ∧ off = 4 * k := ⟨off / 4, by omega, by omega⟩
  interval_cases k <;> exact ⟨_, rfl⟩

/-- An access reaches a register exactly where the SWPD defines it (R31). -/
theorem accessReg_ok_iff {base a : Nat} {w : AccessWidth} (hb : base % 32 = 0) :
    (∃ r, accessReg base a w = .ok r) ↔ definedAccess base a w := by
  constructor
  · rintro ⟨r, h⟩
    unfold accessReg at h
    split_ifs at h with hw h4 hlt
    cases ho : Reg.ofOffset (a - base) with
    | none => simp [ho] at h
    | some r' =>
      have hle := Reg.ofOffset_le ho
      exact ⟨not_not.mp hw, not_not.mp h4, by omega, by omega⟩
  · rintro ⟨rfl, h4, hle, hge⟩
    obtain ⟨r, hr⟩ := Reg.ofOffset_exists (off := a - base) (by omega) (by omega)
    exact ⟨r, by simpa [Nat.add_sub_cancel' hle] using accessReg_offset hb (by omega) hr⟩

/-- A read is refused only for its access (R31). -/
theorem readAccess_ne_refused (r : Reg) (s : State) (e : Refusal) : readAccess r s ≠ .refused e := by
  unfold readAccess
  split
  · exact nofun
  · split <;> exact nofun

theorem exec_eq_next (i : Instr) (s : State) : ∃ t, exec i s = .next t := by
  rcases exec_cases i s with ⟨_, he⟩ | ⟨_, _, he⟩ | ⟨_, _, he⟩ | ⟨_, _, _, _, he⟩ <;> exact ⟨_, he⟩

/-- A command write never stops the machine. -/
theorem commandWrite_eq_next (v : Word) (s : State) : ∃ t, commandWrite v s = .next t := by
  rcases commandWrite_cases v s with ⟨_, he⟩ | ⟨i, _, he⟩
  · exact ⟨_, he⟩
  · exact he ▸ exec_eq_next i s

/-- A write of a register never stops the machine. -/
theorem writeAccess_eq_next (r : Reg) (v : Word) (s : State) : ∃ t, writeAccess r v s = .next t := by
  by_cases hr : r = .cmd
  · subst hr
    unfold writeAccess
    split
    · exact ⟨s, rfl⟩
    · exact commandWrite_eq_next v s
  · exact ⟨s, writeAccess_of_ne_cmd hr v s⟩

/-- A read is refused exactly where its access reaches no register. -/
theorem busRead_refused_iff {a : Nat} {w : AccessWidth} {s : State} :
    (∃ e, busRead a w s = .refused e) ↔ ¬ ∃ r, accessReg s.par.base a w = .ok r := by
  unfold busRead
  cases accessReg s.par.base a w with
  | ok r => simp [readAccess_ne_refused]
  | error e => simp

/-- A write is refused exactly where its access reaches no register. -/
theorem busWrite_refused_iff {a : Nat} {w : AccessWidth} {v : Word} {s : State} :
    (∃ e, busWrite a w v s = .refused e) ↔ ¬ ∃ r, accessReg s.par.base a w = .ok r := by
  unfold busWrite
  cases accessReg s.par.base a w with
  | ok r =>
    obtain ⟨t, ht⟩ := writeAccess_eq_next r v s
    simp [ht]
  | error e => simp

/-- Settles O17: an access is refused exactly where it reaches no register. -/
theorem undefinedAccessesAreRefused : Obligations.UndefinedAccessesAreRefused := fun _ _ _ hb =>
  ⟨busRead_refused_iff.trans (not_congr (accessReg_ok_iff hb)),
    fun _ => busWrite_refused_iff.trans (not_congr (accessReg_ok_iff hb))⟩

/-! What stops a step (I11, R31). -/

section
variable {s : State} (h : Inv s)
include h

/-- STATUS never shows a code that is never produced (I11). -/
theorem Inv.statusFault_eq_none : statusFault s = none := by
  have hendph : s.endph.isReserved = false := by
    rcases h.endph_hold with he | he | he
    · rw [he]; rfl
    · exact (Phase.ne_of_isReadHold he).2.2.2
    · rw [he]; rfl
  simp [statusFault, h.phase_named, hendph, h.result_named]

theorem Inv.tickEvent_eq_next (l : LineLevel) : ∃ t, tickEvent l s = .next t := by
  unfold tickEvent
  split
  · exact ⟨s, rfl⟩
  · exact tick_next l h.phase_named

/-- An input that is no access, or a defined one, has a next state. -/
theorem Inv.perform_eq_next {e : Event}
    (hd : ∀ a w, (e = .read a w ∨ ∃ v, e = .write a w v) → definedAccess s.par.base a w) :
    ∃ t, Machine.perform e s = .next t := by
  obtain ⟨⟨-, -, -, -, -, -, -, hbase⟩, -⟩ := h.params
  cases e with
  | tick l => exact h.tickEvent_eq_next l
  | read a w =>
    obtain ⟨r, hr⟩ := (accessReg_ok_iff hbase).mpr (hd a w (.inl rfl))
    exact ⟨_, perform_read_eq_next_iff.mpr ⟨r, hr, fun _ _ => h.statusFault_eq_none, rfl⟩⟩
  | write a w v =>
    obtain ⟨r, hr⟩ := (accessReg_ok_iff hbase).mpr (hd a w (.inr ⟨v, rfl⟩))
    obtain ⟨t, ht⟩ := writeAccess_eq_next r v s
    exact ⟨t, by simpa only [Machine.perform, busWrite, hr] using ht⟩
  | reset | assertReset | releaseReset => exact ⟨_, rfl⟩

end

/-- An access that is not defined is refused, in every state (R31). -/
theorem perform_eq_refused {e : Event} {s : State} {a : Nat} {w : AccessWidth} (hb : s.par.base % 32 = 0)
    (hd : ¬ definedAccess s.par.base a w) (he : e = .read a w ∨ ∃ v, e = .write a w v) :
    ∃ r, perform e s = .refused r := by
  have hnone := mt (accessReg_ok_iff hb).mp hd
  rcases he with rfl | ⟨v, rfl⟩
  · exact busRead_refused_iff.mpr hnone
  · exact busWrite_refused_iff.mpr hnone

/-- Settles O53: either the next input makes an access that is refused, or it has a next state. -/
theorem theMachineNeverFaults : Obligations.TheMachineNeverFaults := by
  intro s h
  have htake : Inv (takeEvent s) := h.withAgents s.inbox.tail s.hostReads s.ticks
  by_cases hd : ∀ a w, (nextEvent s = .read a w ∨ ∃ v, nextEvent s = .write a w v) → definedAccess s.par.base a w
  · obtain ⟨t, ht⟩ := htake.perform_eq_next hd
    exact ⟨fun f hf => (nomatch ht.symm.trans hf), fun r hr => (nomatch ht.symm.trans hr)⟩
  · push Not at hd
    obtain ⟨a, w, he, hundef⟩ := hd
    obtain ⟨⟨-, -, -, -, -, -, -, hbase⟩, -⟩ := h.params
    obtain ⟨r, hr⟩ := perform_eq_refused (s := takeEvent s) hbase hundef he
    exact ⟨fun f hf => (nomatch hr.symm.trans hf), fun _ _ => ⟨a, w, hundef, he⟩⟩

/-- Settles O54: the state after a step meets the invariant, which ties the line driver to the phase. -/
theorem lineIsDrivenOnlyInWakeAndRequest : Obligations.LineIsDrivenOnlyInWakeAndRequest := by
  intro s t h ht
  have hi := everyStepKeepsTheInvariant s t h ht
  refine ⟨fun hp => ?wake, fun hp => ?req, fun hwake hreq => ?other⟩
  case wake => exact ⟨lineDrive_wake hi hp, by simp [hi.line_enabled, hp], by simp [hi.line_level, hp]⟩
  case req => exact ⟨lineDrive_req hi hp, by simp [hi.line_enabled, hp], by simp [hi.line_level, hp]⟩
  case other =>
    have hoe : t.lineOe = false := by simp [hi.line_enabled, hwake, hreq]
    exact ⟨by simp [lineDrive, hoe], hoe, by simp [hi.line_level, hreq]⟩

/-- Settles O50: a block held in reset answers a tick and a write with the state itself, and a read with 0. -/
theorem heldResetIgnoresEverything : Obligations.HeldResetIgnoresEverything := by
  intro s
  refine ⟨_, rfl, rfl, fun l => rfl, fun a w hd hb => ?_, rfl⟩
  obtain ⟨r, hr⟩ := (accessReg_ok_iff hb).mpr hd
  refine ⟨fun v => ?_, perform_read_eq_next_iff.mpr ⟨r, hr, nofun, rfl⟩⟩
  simp only [perform, busWrite, resetDevice_par, hr]
  rfl

/-- A write of CMD, next in line, is a command write on the state without it. -/
theorem step_of_cmd_write {s : State} {v : Word} {rest : List Event} (hb : s.par.base % 32 = 0)
    (hheld : s.resetHeld = false) (hin : s.inbox = .write s.par.base .word v :: rest) :
    step s = commandWrite v { s with inbox := rest } := by
  have hevent : nextEvent s = .write s.par.base .word v := by simp only [nextEvent, hin]
  have htake : takeEvent s = { s with inbox := rest } := by simp only [takeEvent, hin, List.tail_cons]
  rw [step, hevent, htake]
  exact perform_write_cmd (s := { s with inbox := rest }) hb hheld v

/-- Settles O57, by what a write of CMD does. -/
theorem stepRunsTheDecodedCommand : Obligations.StepRunsTheDecodedCommand := by
  intro s v rest hb hheld hin
  rw [step_of_cmd_write hb hheld hin]
  exact ⟨fun i hi => ⟨i.wellFormed_always, commandWrite_of_ok _ hi⟩, fun e he => commandWrite_of_error ⟨e, he⟩ _⟩

/-- A word of the opcode table is the word of the data bus, without its bits above 32 (R32). -/
theorem decode_of_decodeTableWord {w : Nat} {i : Instr} (h : decodeTableWord 32 w = some i) :
    decode (BitVec.ofNat 32 (w % 2 ^ 32)) = .ok i := by
  unfold decodeTableWord at h
  split at h
  · next hd => rw [hd, Option.some.inj h]
  · exact nomatch h

/-- Settles O58: the word stands at the front of the inputs, and reset is not held. -/
theorem fetchedWordsAreRunNext : Obligations.FetchedWordsAreRunNext := by
  intro s w i hb _ hd
  have hstep : step (s.withFetchWord 32 w) = commandWrite _ { s with resetHeld := false } :=
    step_of_cmd_write (s := s.withFetchWord 32 w) hb rfl rfl
  rw [hstep, commandWrite_of_ok _ (decode_of_decodeTableWord hd)]

/-- Settles O59: the input is a tick with the free choice as its sample, and nothing is taken out of the inputs. -/
theorem idleTimePassesByTicks : Obligations.IdleTimePassesByTicks := by
  intro s hin hheld hp
  obtain ⟨t, ht⟩ := tick_next (Config.freeLevel (s.ticks + 1)) (s := { s with ticks := s.ticks + 1 }) hp
  refine ⟨_, t, ht, ?_⟩
  have htake : takeEvent s = s := by
    rw [takeEvent, hin]
    exact congrArg (fun es => { s with inbox := es }) hin.symm
  have hevent : nextEvent s = .tick (Config.freeLevel (s.ticks + 1)) := by simp only [nextEvent, hin]
  rw [step, htake, hevent]
  simpa [perform, tickEvent, hheld] using ht

end Sys2Proof.Machine
end

section
/-! PROOFS. The fields of STATUS (spec/10_state.md R18) and the commands' own effects (spec/41_frame_decoder.md R70,
spec/40_signal_timer.md R62 and R63). -/
namespace Sys2Proof.Machine

/-! A field of `w` bits placed at bit `n` of a word: itself there, and 0 where it does not reach. -/

theorem field_extract_same {w n : Nat} (x : BitVec w) (h : n + w ≤ 32) :
    (x.zeroExtend 32 <<< n).extractLsb' n w = x := by
  ext i hi
  simp [BitVec.getLsbD_eq_getElem, hi, show n + i < 32 by omega]

theorem field_extract_outside {w n i m : Nat} (x : BitVec w) (h : i + m ≤ n ∨ n + w ≤ i) :
    (x.zeroExtend 32 <<< n).extractLsb' i m = 0#m := by
  ext j hj
  rw [BitVec.getElem_extractLsb', field_bit_outside x (by omega)]
  simp

/-- BUSY is the one field of STATUS that reaches bit 0 (R18). -/
theorem busy_extract_outside (s : State) {i m : Nat} (h : 1 ≤ i) :
    ((BitVec.ofBool s.busy).zeroExtend 32).extractLsb' i m = 0#m := by
  simpa using field_extract_outside (n := 0) (BitVec.ofBool s.busy) (i := i) (m := m) (by omega)

/-- The fields of STATUS that do not reach bits `i + m - 1` to `i` drop out of them. -/
theorem statusWord_extract (s : State) {i m : Nat} (h : 1 ≤ i) : (statusWord s).extractLsb' i m =
    (s.bitcnt.zeroExtend 32 <<< 16).extractLsb' i m ||| (s.endph.code.zeroExtend 32 <<< 12).extractLsb' i m
      ||| (s.phase.code.zeroExtend 32 <<< 8).extractLsb' i m
      ||| ((BitVec.ofBool s.cmderr).zeroExtend 32 <<< 4).extractLsb' i m
      ||| (s.result.code.zeroExtend 32 <<< 2).extractLsb' i m
      ||| ((BitVec.ofBool s.done).zeroExtend 32 <<< 1).extractLsb' i m := by
  simp only [statusWord, BitVec.extractLsb'_or, busy_extract_outside s h, BitVec.or_zero]

/-- DONE is bit 1 of STATUS (R18). -/
theorem statusWord_bit_one (s : State) : (statusWord s).getLsbD 1 = s.done := by
  have h : (statusWord s).extractLsb' 1 1 = BitVec.ofBool s.done := by
    rw [statusWord_extract s (by decide)]
    simp (disch := omega) only [field_extract_same, field_extract_outside, BitVec.zero_or]
  rw [BitVec.getLsbD_eq_extractLsb', h]
  cases s.done <;> rfl

/-- Settles O14: at each field's place the other fields have no bit. -/
theorem statusFieldsStandWhereTheTableSays : Obligations.StatusFieldsStandWhereTheTableSays := by
  intro s
  refine ⟨?busy, statusWord_bit_one s, ?result, statusWord_bit_four s, ?_, ?phase, ?endph, ?bitcnt, ?_⟩
  case busy => rw [statusWord_bit_zero, busy_iff]
  all_goals
    rw [statusWord_extract s (by decide)]
    simp (disch := omega) only [field_extract_same, field_extract_outside, BitVec.zero_or, BitVec.or_zero,
      BitVec.ofNat_eq_ofNat]

/-- Settles O9 by READ's acceptance. -/
theorem readIsAcceptedInIdle : Obligations.ReadIsAcceptedInIdle := fun _ => exec_read_of_idle

/-- Settles O10 by MEASURE's acceptance. -/
theorem measureIsAcceptedInIdle : Obligations.MeasureIsAcceptedInIdle := fun level timeout _ =>
  exec_measure_of_idle level timeout

/-- A register other than STATUS shows its own field of the state, or 0. -/
theorem readReg_congr {s t : State} {r : Reg} (hr : r ≠ .status)
    (h : (t.frame0, t.frame1, t.hum, t.temp, t.hold) = (s.frame0, s.frame1, s.hum, s.temp, s.hold)) :
    readReg t r = readReg s r := by
  simp only [Prod.mk.injEq] at h
  obtain ⟨hframe0, hframe1, hhum, htemp, hhold⟩ := h
  cases r with
  | cmd | reserved => rfl
  | status => exact absurd rfl hr
  | frame0 => exact hframe0
  | frame1 => exact hframe1
  | hum => exact hhum
  | temp => exact htemp
  | hold => exact hhold

/-- Settles O12: a command clears or sets CMDERR alone, or it is READ's or MEASURE's acceptance in IDLE. -/
theorem commandFrame : Obligations.CommandFrame := by
  intro i s t h
  rcases exec_cases i s with ⟨_, he⟩ | ⟨_, _, he⟩ | ⟨rfl, hp, he⟩ | ⟨l, n, rfl, hp, he⟩ <;>
    obtain rfl := Host.Outcome.next.inj (he.symm.trans h) <;>
    refine ⟨fun r hr => readReg_congr hr rfl, rfl, rfl, rfl, rfl, rfl, rfl, ?_⟩
  case inl | inr.inl =>
    exact ⟨fun _ => ⟨rfl, rfl, rfl, rfl⟩, fun _ => ⟨rfl, rfl⟩,
      fun _ => ⟨rfl, rfl, rfl, rfl, rfl, rfl, rfl, rfl, rfl, rfl⟩⟩
  case inr.inr.inl =>
    exact ⟨fun hne => absurd rfl hne, fun _ => ⟨rfl, rfl⟩, fun hkeep => by simp [hp] at hkeep⟩
  case inr.inr.inr =>
    exact ⟨fun _ => ⟨rfl, rfl, rfl, rfl⟩, fun hne => absurd rfl (hne l n), fun hkeep => by simp [hp] at hkeep⟩

/-- STATUS right after READ's acceptance: BUSY and WAKE's code, with ENDPH kept (R70). -/
theorem statusWord_acceptRead (s : State) :
    statusWord (acceptRead s) = 0x00000101 ||| s.endph.code.zeroExtend 32 <<< 12 :=
  calc statusWord (acceptRead s)
    _ = s.endph.code.zeroExtend 32 <<< 12 ||| (0x100#32 ||| 1#32) := by
      simp [statusWord_eq, Phase.code, Result.code, BitVec.or_assoc]
    _ = 0x00000101 ||| s.endph.code.zeroExtend 32 <<< 12 := BitVec.or_comm _ _

/-- Settles O19: a tick that stays in WAKE changes no field of STATUS. -/
theorem statusShowsTheAcceptedRead : Obligations.StatusShowsTheAcceptedRead := by
  intro s t hv hp h
  obtain rfl := Host.Outcome.next.inj ((exec_read_of_idle hp).symm.trans h)
  have hne : (acceptRead s).cnt + 1 ≠ (acceptRead s).par.tWake := fun heq => by
    have := hv.1
    rw [← show (1 : TickCount) = s.par.tWake from heq] at this
    exact absurd this (by decide)
  exact ⟨statusWord_acceptRead s, fun l => ⟨_, tick_wake_on rfl hne, rfl⟩⟩

end Sys2Proof.Machine
end

section
/-! PROOFS. A hold's whole course (spec/40_signal_timer.md R60, R61), the counter (spec/10_state.md R13), and MEASURE
(spec/40_signal_timer.md R65 to R69). -/
namespace Sys2Proof.Machine

/-- Where every tick counts while the counter is below `bound`, a run that stays below it counts its ticks. -/
theorem runTicks_counts {bound : Nat} (ls : List LineLevel) {s : State}
    (hstep : ∀ l ∈ ls, ∀ c : TickCount, c.toNat < bound →
      tick l { s with cnt := c } = .next { s with cnt := c + 1 })
    (hb : bound < 2 ^ 16) (hn : s.cnt.toNat + ls.length ≤ bound) :
    runTicks ls s = .next { s with cnt := BitVec.ofNat 16 (s.cnt.toNat + ls.length) } := by
  induction ls generalizing s with
  | nil => rw [List.length_nil, Nat.add_zero, BitVec.ofNat_toNat, BitVec.setWidth_eq]; rfl
  | cons l ls ih =>
    rw [List.length_cons] at hn ⊢
    have hsucc : (s.cnt + 1).toNat = s.cnt.toNat + 1 := toNat_succ (by omega)
    have hrest := ih (s := { s with cnt := s.cnt + 1 }) (fun l' hl' => hstep l' (List.mem_cons_of_mem l hl'))
      (show (s.cnt + 1).toNat + ls.length ≤ bound by omega)
    rw [runTicks_cons (hstep l List.mem_cons_self s.cnt (by omega)), hrest]
    show Host.Outcome.next { s with cnt := BitVec.ofNat 16 ((s.cnt + 1).toNat + ls.length) } = _
    rw [hsucc, Nat.add_right_comm, Nat.add_assoc]

/-! A hold, sample by sample. -/
section
variable {s : State} {level : LineLevel} {timeout : TickCount}

/-- A tick whose sample is off the level of the hold ends it (R61). -/
theorem tick_off_level {l : LineLevel} (h : holdParams s = some (level, timeout)) (hne : l ≠ level) :
    tick l s = .next (endHold s.cnt s) := by
  rw [tick_of_holdParams h, holdStep_off_level h hne]

/-- A sample at the level of a hold below its timeout is counted (R60). -/
theorem tick_counts (h : holdParams s = some (level, timeout)) (hlt : s.cnt.toNat < timeout.toNat) :
    tick level s = .next { s with cnt := s.cnt + 1 } := by
  rw [tick_on_level h, countSample_of_lt hlt]

/-- A sample at the level of a hold at its timeout ends the operation (R60). -/
theorem tick_times_out (h : holdParams s = some (level, timeout)) (hle : timeout.toNat ≤ s.cnt.toNat) :
    tick level s = .next (finish .timeout s) := by
  rw [tick_on_level h, countSample_of_le hle]

/-- As many samples at the level as the timeout leaves room for are counted (R60). -/
theorem runTicks_on_level (n : Nat) (h : holdParams s = some (level, timeout))
    (hn : s.cnt.toNat + n ≤ timeout.toNat) :
    runTicks (List.replicate n level) s = .next { s with cnt := BitVec.ofNat 16 (s.cnt.toNat + n) } := by
  have hrun := runTicks_counts (s := s) (List.replicate n level) (fun l hl c hc => ?_) timeout.isLt
    (by rwa [List.length_replicate])
  · rwa [List.length_replicate] at hrun
  · obtain rfl := List.eq_of_mem_replicate hl
    exact tick_counts (s := { s with cnt := c }) h hc

/-- Samples at the level and then one off it end the hold with the count of the first ones (R61). -/
theorem runTicks_off_level {other : LineLevel} (n : Nat) (h : holdParams s = some (level, timeout))
    (hn : s.cnt.toNat + n ≤ timeout.toNat) (hne : other ≠ level) :
    runTicks (List.replicate n level ++ [other]) s = .next (endHold (BitVec.ofNat 16 (s.cnt.toNat + n))
      { s with cnt := BitVec.ofNat 16 (s.cnt.toNat + n) }) := by
  rw [runTicks_append (runTicks_on_level n h hn),
    runTicks_cons (tick_off_level (s := { s with cnt := BitVec.ofNat 16 (s.cnt.toNat + n) }) h hne)]
  rfl

/-- The sample past the timeout ends the operation (R60). -/
theorem runTicks_timeout (h : holdParams s = some (level, timeout)) (hle : s.cnt.toNat ≤ timeout.toNat) :
    runTicks (List.replicate (timeout.toNat - s.cnt.toNat + 1) level) s = .next (finish .timeout s) := by
  have hsum : s.cnt.toNat + (timeout.toNat - s.cnt.toNat) = timeout.toNat := by omega
  have hrun := runTicks_on_level (timeout.toNat - s.cnt.toNat) h hsum.le
  rw [hsum, BitVec.ofNat_toNat, BitVec.setWidth_eq] at hrun
  rw [List.replicate_succ', runTicks_append hrun]
  exact runTicks_cons (tick_times_out (s := { s with cnt := timeout }) h (Nat.le_refl _))

end

/-- Settles O23: the samples at the level are counted one by one, and the last one decides how the hold ends. -/
theorem holdsAreCountedUpToTheirTimeout : Obligations.HoldsAreCountedUpToTheirTimeout := fun _ _ _ h hle =>
  ⟨fun n hn => runTicks_on_level n h hn, fun n _ hn hne => runTicks_off_level n h hn hne, runTicks_timeout h hle⟩

/-! The sample that ends a READ's hold, with the parameters of R5 (`tick_low_more_bits` is BIT_H's). -/
section
variable {s : State} (hv : s.par.InRange)
include hv

theorem tick_high_presL (hp : s.phase = .presL) : tick .high s = .next { s with phase := .presH, cnt := 1 } := by
  rw [tick_off_level (holdParams_presL hp) (by decide), endHold_presL _ hp, nextHold_presH hv]

theorem tick_low_presH (hp : s.phase = .presH) : tick .low s = .next { s with phase := .bitL, cnt := 1 } := by
  rw [tick_off_level (holdParams_presH hp) (by decide), endHold_presH _ hp, nextHold_bitL hv]

theorem tick_high_bitL (hp : s.phase = .bitL) : tick .high s = .next { s with phase := .bitH, cnt := 1 } := by
  rw [tick_off_level (holdParams_bitL hp) (by decide), endHold_bitL _ hp, nextHold_bitH hv]

end

/-- Settles O25: the sample is off the hold's level, and the next hold's timeout has room for it. -/
theorem nextHoldsStartWithCountOne : Obligations.NextHoldsStartWithCountOne := by
  intro l s level timeout hv h hne
  have hoff {e : LineLevel} {n : TickCount} (he : holdParams s = some (e, n)) : l ≠ e := by
    cases h.symm.trans he
    exact hne
  refine ⟨fun hp => ?presL, fun hp => ?presH, fun hp => ?bitL, fun hp hmore => ?bitH⟩
  case presL => exact LineLevel.ne_low_iff.mp (hoff (holdParams_presL hp)) ▸ tick_high_presL hv hp
  case presH => exact LineLevel.ne_high_iff.mp (hoff (holdParams_presH hp)) ▸ tick_low_presH hv hp
  case bitL => exact LineLevel.ne_low_iff.mp (hoff (holdParams_bitL hp)) ▸ tick_high_bitL hv hp
  case bitH =>
    exact LineLevel.ne_high_iff.mp (hoff (holdParams_bitH hp)) ▸
      tick_low_more_bits hv hp (mt (bitcnt_succ_eq_forty_iff _).mpr hmore)

/-- A tick that stays in a running operation's phase counts (R13). -/
theorem TickEnd.count_of_same_phase {l : LineLevel} {s t : State} (h : TickEnd l s t) (hi : Inv s)
    (hs : s.phase ≠ .idle) (ht : t.phase = s.phase) : t.cnt.toNat = s.cnt.toNat + 1 := by
  cases h with
  | idle hp => exact absurd hp hs
  | wakeOver hp | reqOver hp => exact nomatch ht.trans hp
  | wakeOn hp =>
    have hc := hi.cnt_wake hp
    exact toNat_succ (by omega)
  | reqOn hp =>
    have hc := hi.cnt_req hp
    exact toNat_succ (by omega)
  | timeout => exact absurd ht.symm hs
  | count _ _ _ nowrap => exact nowrap
  | holdEnd _ _ _ _ _ he =>
    cases he with
    | presence hp | firstBit hp | highHold hp | nextBit hp => exact nomatch ht.trans hp
    | frameGood | frameBad | measured => exact absurd ht.symm hs

/-- Settles O30: the bounds are the invariant's, which the tick keeps. -/
theorem counterIsMonotonicAndNeverWraps : Obligations.CounterIsMonotonicAndNeverWraps := fun _ _ _ hi ht =>
  have hi' := hi.tick ht
  ⟨hi'.cnt_idle, hi'.cnt_hold, (tick_spec hi.params.1 ht).count_of_same_phase hi⟩

/-! Runs of ticks, one tick at a time. -/

theorem exists_of_runTicks_cons {l : LineLevel} {ls : List LineLevel} {s u : State}
    (h : runTicks (l :: ls) s = .next u) : ∃ t, tick l s = .next t ∧ runTicks ls t = .next u := by
  cases ht : tick l s with
  | next t => exact ⟨t, rfl, (runTicks_cons ht).symm.trans h⟩
  | fault f => simp [runTicks, ht] at h
  | refused r => simp [runTicks, ht] at h

/-- What every tick keeps, every run keeps. -/
theorem runTicks_keeps {P : State → Prop} (hstep : ∀ {l s t}, P s → tick l s = .next t → P t)
    {ls : List LineLevel} {s u : State} (hs : P s) (h : runTicks ls s = .next u) : P u := by
  induction ls generalizing s with
  | nil => obtain rfl : s = u := Host.Outcome.next.inj h; exact hs
  | cons l ls ih =>
    obtain ⟨t, ht, hrest⟩ := exists_of_runTicks_cons h
    exact ih (hstep hs ht) hrest

/-- What ticks with the same sample keep between two machines, runs with the same samples keep. -/
theorem runTicks_relate {R : State → State → Prop}
    (hstep : ∀ {l s₁ s₂ t₁ t₂}, R s₁ s₂ → tick l s₁ = .next t₁ → tick l s₂ = .next t₂ → R t₁ t₂)
    {ls : List LineLevel} {s₁ s₂ u₁ u₂ : State} (hs : R s₁ s₂) (h₁ : runTicks ls s₁ = .next u₁)
    (h₂ : runTicks ls s₂ = .next u₂) : R u₁ u₂ := by
  induction ls generalizing s₁ s₂ with
  | nil =>
    obtain rfl : s₁ = u₁ := Host.Outcome.next.inj h₁
    obtain rfl : s₂ = u₂ := Host.Outcome.next.inj h₂
    exact hs
  | cons l ls ih =>
    obtain ⟨t₁, ht₁, hrest₁⟩ := exists_of_runTicks_cons h₁
    obtain ⟨t₂, ht₂, hrest₂⟩ := exists_of_runTicks_cons h₂
    exact ih (hstep hs ht₁ ht₂) hrest₁ hrest₂

/-! MEASURE. -/

/-- A tick of a MEASURE counts the sample, times out, or ends with the count (R60, R65, R66). -/
theorem tick_meas {l : LineLevel} {s : State} (hp : s.phase = .meas) : tick l s = .next (
    if l = s.mlevel then if s.cnt.toNat < s.mto.toNat then { s with cnt := s.cnt + 1 } else finish .timeout s
    else measureEnd s.cnt s) := by
  have h := holdParams_meas hp
  split
  · next hl =>
    subst hl
    split
    · next hlt => exact tick_counts h hlt
    · next hge => exact tick_times_out h (not_lt.mp hge)
  · next hne => rw [tick_off_level h hne, endHold_meas _ hp]

/-- A MEASURE has ended when its ticks exceed its timeout, whatever the line does (R68). -/
theorem runTicks_meas_ends (ls : List LineLevel) {s : State} (hp : s.phase = .meas)
    (hc : s.cnt.toNat ≤ s.mto.toNat) (hn : s.mto.toNat + 1 ≤ s.cnt.toNat + ls.length) :
    ∃ u, runTicks ls s = .next u ∧ u.phase = .idle ∧ u.done = true := by
  induction ls generalizing s with
  | nil => rw [List.length_nil] at hn; omega
  | cons l ls ih =>
    have hb := s.mto.isLt
    rw [List.length_cons] at hn
    rw [runTicks_cons (tick_meas hp)]
    split_ifs with hl hlt
    · have hsucc : (s.cnt + 1).toNat = s.cnt.toNat + 1 := toNat_succ (by omega)
      exact ih (s := { s with cnt := s.cnt + 1 }) hp (hsucc ▸ hlt)
        (show s.mto.toNat + 1 ≤ (s.cnt + 1).toNat + _ by omega)
    · exact ⟨_, runTicks_idle ls rfl, rfl, rfl⟩
    · exact ⟨_, runTicks_idle ls rfl, rfl, rfl⟩

/-- Settles O27: MEASURE's hold starts with nothing counted, and its line driver is off all along. -/
theorem measureTiming : Obligations.MeasureTiming := by
  intro level other timeout s t hp hoe hout hne h
  obtain rfl := Host.Outcome.next.inj ((exec_measure_of_idle level timeout hp).symm.trans h)
  have hh : holdParams (acceptMeasure level timeout s) = some (level, timeout) := holdParams_meas rfl
  have hc : (acceptMeasure level timeout s).cnt.toNat = 0 := rfl
  refine ⟨fun n hn => ⟨⟨_, runTicks_on_level n hh (by omega), rfl⟩, ?ended⟩, ?timeout, fun ls hls => ?_⟩
  case ended =>
    have hn16 : (BitVec.ofNat 16 n).toNat = n := by
      have := timeout.isLt
      rw [BitVec.toNat_ofNat, Nat.mod_eq_of_lt (by omega)]
    rw [runTicks_off_level n hh (by omega) hne, endHold_meas _ rfl, hc, Nat.zero_add, measureEnd_eq _ rfl, hn16]
    simp [acceptMeasure, hoe, hout]
  case timeout =>
    have hrun := runTicks_timeout hh (by omega)
    rw [hc, Nat.sub_zero] at hrun
    rw [hrun]
    simp [finish, acceptMeasure, hoe, hout]
  exact runTicks_meas_ends ls rfl (Nat.zero_le _) (by rw [hc, Nat.zero_add]; exact hls)

/-- `u` is idle or measures, without driving the line, and READ's registers are those of `s` (R67). -/
def MeasuresOnly (s u : State) : Prop :=
  (u.phase = .meas ∨ u.phase = .idle) ∧ u.lineOe = false ∧ u.bitcnt = s.bitcnt ∧ u.shreg = s.shreg ∧
    u.frame0 = s.frame0 ∧ u.frame1 = s.frame1 ∧ u.hum = s.hum ∧ u.temp = s.temp

theorem MeasuresOnly.tick {l : LineLevel} {s u v : State} (h : MeasuresOnly s u) (ht : tick l u = .next v) :
    MeasuresOnly s v := by
  obtain ⟨hp | hp, hoe, hregs⟩ := h
  · obtain rfl := Host.Outcome.next.inj ((tick_meas hp).symm.trans ht)
    split_ifs
    · exact ⟨.inl hp, hoe, hregs⟩
    · exact ⟨.inr rfl, rfl, hregs⟩
    · exact ⟨.inr rfl, rfl, hregs⟩
  · obtain rfl := Host.Outcome.next.inj ((tick_idle hp).symm.trans ht)
    exact ⟨.inr hp, hoe, hregs⟩

/-- Settles O28: the line driver is off in IDLE, and every tick of a MEASURE keeps it so. -/
theorem measureDoesNotDriveTheLine : Obligations.MeasureDoesNotDriveTheLine := by
  intro level timeout s t u ls hi hp h hrun
  obtain rfl := Host.Outcome.next.inj ((exec_measure_of_idle level timeout hp).symm.trans h)
  have hoe : s.lineOe = false := by simp [hi.line_enabled, hp]
  have hstart : MeasuresOnly s (acceptMeasure level timeout s) := ⟨.inl rfl, hoe, rfl, rfl, rfl, rfl, rfl, rfl⟩
  obtain ⟨-, hoff, hregs⟩ := runTicks_keeps MeasuresOnly.tick hstart hrun
  exact ⟨by simp [lineDrive, hoff], hregs⟩

/-- Two machines that have seen the same of a MEASURE (R69). -/
structure SameMeasure (s₁ s₂ : State) : Prop where
  phase_eq : s₁.phase = s₂.phase
  phase_meas : s₁.phase = .meas ∨ s₁.phase = .idle
  mlevel_eq : s₁.mlevel = s₂.mlevel
  mto_eq : s₁.mto = s₂.mto
  cnt_eq : s₁.phase = .meas → s₁.cnt = s₂.cnt
  done_eq : s₁.done = s₂.done
  result_eq : s₁.result = s₂.result
  hold_eq : s₁.done = true → s₁.result = .ok → s₁.hold = s₂.hold

theorem SameMeasure.tick {l : LineLevel} {s₁ s₂ t₁ t₂ : State} (h : SameMeasure s₁ s₂)
    (h₁ : tick l s₁ = .next t₁) (h₂ : tick l s₂ = .next t₂) : SameMeasure t₁ t₂ := by
  rcases h.phase_meas with hp | hp
  · have hcnt := h.cnt_eq hp
    obtain rfl := Host.Outcome.next.inj ((tick_meas hp).symm.trans h₁)
    obtain rfl := Host.Outcome.next.inj ((tick_meas (h.phase_eq ▸ hp)).symm.trans h₂)
    rw [← h.mlevel_eq, ← h.mto_eq, ← hcnt]
    split_ifs
    · exact { h with mlevel_eq := rfl, mto_eq := rfl, cnt_eq := fun _ => rfl }
    · exact { h with
        phase_eq := rfl, phase_meas := .inr rfl, cnt_eq := nofun, done_eq := rfl, result_eq := rfl, hold_eq := nofun }
    · exact { h with
        phase_eq := rfl, phase_meas := .inr rfl, cnt_eq := nofun, done_eq := rfl, result_eq := rfl
        hold_eq := fun _ _ => rfl }
  · obtain rfl := Host.Outcome.next.inj ((tick_idle hp).symm.trans h₁)
    obtain rfl := Host.Outcome.next.inj ((tick_idle (h.phase_eq ▸ hp)).symm.trans h₂)
    exact h

/-- Settles O29: two acceptances of one MEASURE have seen the same, and so have they after the same samples. -/
theorem measureDependsOnTheLineAlone : Obligations.MeasureDependsOnTheLineAlone := by
  intro level timeout s₁ s₂ t₁ t₂ u₁ u₂ ls hp₁ hp₂ h₁ h₂ hrun₁ hrun₂
  obtain rfl := Host.Outcome.next.inj ((exec_measure_of_idle level timeout hp₁).symm.trans h₁)
  obtain rfl := Host.Outcome.next.inj ((exec_measure_of_idle level timeout hp₂).symm.trans h₂)
  have hstart : SameMeasure (acceptMeasure level timeout s₁) (acceptMeasure level timeout s₂) :=
    ⟨rfl, .inl rfl, rfl, rfl, fun _ => rfl, rfl, rfl, nofun⟩
  have hend := runTicks_relate SameMeasure.tick hstart hrun₁ hrun₂
  exact ⟨hend.phase_eq, hend.done_eq, hend.result_eq, hend.hold_eq⟩

end Sys2Proof.Machine
end

section
/-! PROOFS. The frame of a tick (spec/10_state.md sections 3 to 5), whatever the parameters, and what a tick does not
look at: CMDERR and the words the host has read (spec/70_reset_and_hazards.md section 3), and a frame that is not
published (spec/10_state.md section 7). -/
namespace Sys2Proof.Machine

/-- The next hold starts, or its timeout has no room for the sample that starts it (R60, R61). -/
theorem nextHold_cases (p : Phase) (s : State) : nextHold p s = finish .timeout (startHold p s) ∨
    ∃ c, nextHold p s = { s with phase := p, cnt := c } := by
  unfold nextHold
  split
  · next n _ =>
    rcases countSample_cases n (startHold p s) with ⟨_, he⟩ | ⟨_, _, he⟩
    · exact .inl he
    · exact .inr ⟨_, he⟩
  · exact .inr ⟨0, rfl⟩

/-- Everything a tick can write, whatever the parameters (`TickEnd` says more, but with the parameters of R5). -/
inductive TickWrites (s : State) : State → Prop where
  | moves (p : Phase) (c : TickCount) : TickWrites s { s with phase := p, cnt := c }
  | drives (h : s.phase = .wake ∨ s.phase = .req) (p : Phase) (c : TickCount) (oe : Bool) (o : LineLevel) :
      TickWrites s { s with phase := p, cnt := c, lineOe := oe, lineOut := o }
  | takesBit (h : s.phase = .bitH) (p : Phase) (c : TickCount) :
      TickWrites s { takeBit s.cnt s with phase := p, cnt := c }
  | ends (r : Result) (p : Phase) : TickWrites s (finish r (startHold p s))
  | endsAtBit (h : s.phase = .bitH) (r : Result) (p : Phase) :
      TickWrites s (finish r (startHold p (takeBit s.cnt s)))
  | publishes (h : s.phase = .bitH) : TickWrites s (finish .ok (commit (takeBit s.cnt s)))
  | records (h : s.phase = .meas) : TickWrites s (measureEnd s.cnt s)

theorem nextHold_writes (p : Phase) (s : State) : TickWrites s (nextHold p s) := by
  rcases nextHold_cases p s with he | ⟨c, he⟩ <;> rw [he]
  · exact .ends .timeout p
  · exact .moves p c

theorem decodeBit_writes {s : State} (hp : s.phase = .bitH) : TickWrites s (decodeBit s.cnt s) := by
  unfold decodeBit
  split
  · unfold complete
    split
    · exact .publishes hp
    · exact .endsAtBit hp .checksumError s.phase
  · rcases nextHold_cases .bitL (takeBit s.cnt s) with he | ⟨c, he⟩ <;> rw [he]
    · exact .endsAtBit hp .timeout .bitL
    · exact .takesBit hp .bitL c

theorem endHold_writes (s : State) : TickWrites s (endHold s.cnt s) := by
  cases hp : s.phase with
  | presL => rw [endHold_presL _ hp]; exact nextHold_writes _ s
  | presH => rw [endHold_presH _ hp]; exact nextHold_writes _ s
  | bitL => rw [endHold_bitL _ hp]; exact nextHold_writes _ s
  | bitH => rw [endHold_bitH _ hp]; exact decodeBit_writes hp
  | meas => rw [endHold_meas _ hp]; exact .records hp
  | idle | wake | req | reserved => simp only [endHold, hp]; exact .moves s.phase s.cnt

theorem tick_writes {l : LineLevel} {s t : State} (h : tick l s = .next t) : TickWrites s t := by
  cases hp : s.phase with
  | idle =>
    obtain rfl := Host.Outcome.next.inj ((tick_idle hp).symm.trans h)
    exact .moves s.phase s.cnt
  | wake =>
    obtain rfl := Host.Outcome.next.inj ((tick_wake hp).symm.trans h)
    unfold wakeTick
    split
    · exact .drives (.inl hp) .req 0 s.lineOe .high
    · exact .moves s.phase (s.cnt + 1)
  | req =>
    obtain rfl := Host.Outcome.next.inj ((tick_req hp).symm.trans h)
    unfold reqTick
    split
    · exact .drives (.inr hp) .presL 0 false .low
    · exact .moves s.phase (s.cnt + 1)
  | presL | presH | bitL | bitH | meas =>
    obtain ⟨⟨level, timeout⟩, hh⟩ : ∃ x, holdParams s = some x := by simp [holdParams, hp]
    obtain rfl := Host.Outcome.next.inj ((tick_of_holdParams hh).symm.trans h)
    rw [holdStep_eq hh]
    split
    · rcases countSample_cases timeout s with ⟨_, he⟩ | ⟨_, _, he⟩ <;> rw [he]
      · exact .ends .timeout s.phase
      · exact .moves s.phase (s.cnt + 1)
    · exact endHold_writes s
  | reserved => simp [tick, hp] at h

/-- Settles O21, write by write. -/
theorem tickFrame : Obligations.TickFrame := by
  intro l s t h
  cases tick_writes h with
  | moves => exact ⟨rfl, rfl, rfl, rfl, rfl, rfl, rfl, rfl, fun _ => ⟨rfl, rfl, rfl, rfl, rfl, rfl⟩, fun _ => rfl,
      fun _ => ⟨rfl, rfl, rfl, rfl, rfl, rfl, rfl, rfl⟩, fun _ _ _ => ⟨rfl, rfl⟩⟩
  | drives hp => exact ⟨rfl, rfl, rfl, rfl, rfl, rfl, rfl, rfl, fun _ => ⟨rfl, rfl, rfl, rfl, rfl, rfl⟩, fun _ => rfl,
      fun _ => ⟨rfl, rfl, rfl, rfl, rfl, rfl, rfl, rfl⟩, fun _ hwake hreq => absurd hp (not_or.mpr ⟨hwake, hreq⟩)⟩
  | takesBit hp => exact ⟨rfl, rfl, rfl, rfl, rfl, rfl, rfl, rfl, fun hne => absurd hp hne, fun _ => rfl,
      fun _ => ⟨rfl, rfl, rfl, rfl, rfl, rfl, rfl, rfl⟩, fun _ _ _ => ⟨rfl, rfl⟩⟩
  | ends => exact ⟨rfl, rfl, rfl, rfl, rfl, rfl, rfl, rfl, fun _ => ⟨rfl, rfl, rfl, rfl, rfl, rfl⟩, fun _ => rfl,
      fun hbusy => absurd rfl hbusy, fun hbusy => absurd rfl hbusy⟩
  | endsAtBit hp | publishes hp => exact ⟨rfl, rfl, rfl, rfl, rfl, rfl, rfl, rfl, fun hne => absurd hp hne,
      fun _ => rfl, fun hbusy => absurd rfl hbusy, fun hbusy => absurd rfl hbusy⟩
  | records hp => exact ⟨rfl, rfl, rfl, rfl, rfl, rfl, rfl, rfl, fun _ => ⟨rfl, rfl, rfl, rfl, rfl, rfl⟩,
      fun hne => absurd hp hne, fun hbusy => absurd rfl hbusy, fun hbusy => absurd rfl hbusy⟩

/-! A change of the state that a tick neither looks at nor undoes. -/

/-- `f` leaves what the sequencer reads alone, and commutes with what it writes outside BIT_H. -/
structure Passive (f : State → State) : Prop where
  phase_eq : ∀ s, (f s).phase = s.phase
  cnt_eq : ∀ s, (f s).cnt = s.cnt
  par_eq : ∀ s, (f s).par = s.par
  mlevel_eq : ∀ s, (f s).mlevel = s.mlevel
  mto_eq : ∀ s, (f s).mto = s.mto
  count : ∀ s c, { f s with cnt := c } = f { s with cnt := c }
  startHold : ∀ p s, startHold p (f s) = f (startHold p s)
  enterReq : ∀ s, { f s with lineOut := .high, cnt := 0, phase := .req } =
    f { s with lineOut := .high, cnt := 0, phase := .req }
  release : ∀ s, { f s with lineOe := false, lineOut := .low, cnt := 0, phase := .presL } =
    f { s with lineOe := false, lineOut := .low, cnt := 0, phase := .presL }
  finish : ∀ r s, finish r (f s) = f (finish r s)
  measureEnd : ∀ n s, measureEnd n (f s) = f (measureEnd n s)

section
variable {f : State → State} (hf : Passive f)
include hf

theorem Passive.holdParams (s : State) : holdParams (f s) = Machine.holdParams s := by
  simp only [Machine.holdParams, hf.phase_eq, hf.par_eq, hf.mlevel_eq, hf.mto_eq]

theorem Passive.countSample (n : TickCount) (s : State) : countSample n (f s) = f (Machine.countSample n s) := by
  simp only [Machine.countSample, hf.cnt_eq, hf.finish, hf.count, apply_ite f]

theorem Passive.nextHold (p : Phase) (s : State) : nextHold p (f s) = f (Machine.nextHold p s) := by
  simp only [Machine.nextHold, hf.startHold, hf.holdParams]
  cases Machine.holdParams (Machine.startHold p s) with
  | none => rfl
  | some x => exact hf.countSample x.2 _

theorem Passive.endHold (n : TickCount) {s : State} (hne : s.phase ≠ .bitH) :
    endHold n (f s) = f (Machine.endHold n s) := by
  have hf' : (f s).phase = s.phase := hf.phase_eq s
  cases hp : s.phase with
  | presL => rw [endHold_presL n hp, endHold_presL n (hf'.trans hp), hf.nextHold]
  | presH => rw [endHold_presH n hp, endHold_presH n (hf'.trans hp), hf.nextHold]
  | bitL => rw [endHold_bitL n hp, endHold_bitL n (hf'.trans hp), hf.nextHold]
  | bitH => exact absurd hp hne
  | meas => rw [endHold_meas n hp, endHold_meas n (hf'.trans hp), hf.measureEnd]
  | idle | wake | req | reserved => simp only [Machine.endHold, hf', hp]

/-- One more tick counted in WAKE or REQ. -/
theorem Passive.countOne (s : State) : { f s with cnt := (f s).cnt + 1 } = f { s with cnt := s.cnt + 1 } := by
  rw [hf.cnt_eq, hf.count]

/-- A tick commutes with `f`, unless it decodes a bit. -/
theorem Passive.tick {l : LineLevel} {s t : State} (hbit : s.phase = .bitH → l = .high)
    (h : tick l s = .next t) : Machine.tick l (f s) = .next (f t) := by
  have hf' : (f s).phase = s.phase := hf.phase_eq s
  cases hp : s.phase with
  | idle =>
    obtain rfl := Host.Outcome.next.inj ((tick_idle hp).symm.trans h)
    exact tick_idle (hf'.trans hp)
  | wake =>
    have hc : (f s).cnt + 1 = (f s).par.tWake ↔ s.cnt + 1 = s.par.tWake := by rw [hf.cnt_eq, hf.par_eq]
    by_cases hover : s.cnt + 1 = s.par.tWake
    · obtain rfl := Host.Outcome.next.inj ((tick_wake_over hp hover).symm.trans h)
      rw [tick_wake_over (hf'.trans hp) (hc.mpr hover), hf.enterReq]
    · obtain rfl := Host.Outcome.next.inj ((tick_wake_on hp hover).symm.trans h)
      rw [tick_wake_on (hf'.trans hp) (mt hc.mp hover), hf.countOne]
  | req =>
    have hc : (f s).cnt + 1 = (f s).par.tReq ↔ s.cnt + 1 = s.par.tReq := by rw [hf.cnt_eq, hf.par_eq]
    by_cases hover : s.cnt + 1 = s.par.tReq
    · obtain rfl := Host.Outcome.next.inj ((tick_req_over hp hover).symm.trans h)
      rw [tick_req_over (hf'.trans hp) (hc.mpr hover), hf.release]
    · obtain rfl := Host.Outcome.next.inj ((tick_req_on hp hover).symm.trans h)
      rw [tick_req_on (hf'.trans hp) (mt hc.mp hover), hf.countOne]
  | presL | presH | bitL | bitH | meas =>
    obtain ⟨⟨level, timeout⟩, hh⟩ : ∃ x, Machine.holdParams s = some x := by simp [Machine.holdParams, hp]
    obtain rfl := Host.Outcome.next.inj ((tick_of_holdParams hh).symm.trans h)
    have hhf := (hf.holdParams s).trans hh
    rw [tick_of_holdParams hhf, holdStep_eq hhf, holdStep_eq hh, hf.cnt_eq]
    split
    · rw [hf.countSample]
    · next hne =>
      rw [hf.endHold]
      intro hp'
      exact hne ((hbit hp').trans (by cases hh.symm.trans (holdParams_bitH hp'); rfl))
  | reserved => simp [Machine.tick, hp] at h

end

/-- What a host access can write of a running block (R97). -/
def hostWrites (c : Bool) (ws : List Word) (s : State) : State := { s with cmderr := c, hostReads := ws }

theorem passive_hostWrites (c : Bool) (ws : List Word) : Passive (hostWrites c ws) := by
  constructor <;> intros <;> rfl

theorem decodeBit_hostWrites (c : Bool) (ws : List Word) (n : TickCount) (s : State) :
    decodeBit n (hostWrites c ws s) = hostWrites c ws (decodeBit n s) := by
  have htake : takeBit n (hostWrites c ws s) = hostWrites c ws (takeBit n s) := rfl
  unfold decodeBit
  rw [htake, (passive_hostWrites c ws).nextHold, apply_ite (hostWrites c ws)]
  have hcomplete : complete (hostWrites c ws (takeBit n s)) = hostWrites c ws (complete (takeBit n s)) := by
    simp only [complete, apply_ite (hostWrites c ws)]
    rfl
  rw [hcomplete]
  rfl

/-- A tick commutes with what a host access writes. -/
theorem tick_hostWrites (c : Bool) (ws : List Word) {l : LineLevel} {s t : State} (h : tick l s = .next t) :
    tick l (hostWrites c ws s) = .next (hostWrites c ws t) := by
  by_cases hbit : s.phase = .bitH → l = .high
  · exact (passive_hostWrites c ws).tick hbit h
  · push Not at hbit
    obtain ⟨hp, hl⟩ := hbit
    obtain rfl := LineLevel.ne_high_iff.mp hl
    obtain rfl := Host.Outcome.next.inj ((tick_low_bitH hp).symm.trans h)
    rw [tick_low_bitH (s := hostWrites c ws s) hp]
    exact congrArg Host.Outcome.next (decodeBit_hostWrites c ws s.cnt s)

/-- While an operation runs a command writes CMDERR alone (R97). -/
theorem exec_busy_writes {i : Instr} {s t : State} (hp : s.phase ≠ .idle) (h : exec i s = .next t) :
    t = hostWrites t.cmderr s.hostReads s := by
  rcases exec_cases i s with ⟨_, he⟩ | ⟨_, _, he⟩ | ⟨_, hidle, _⟩ | ⟨_, _, _, hidle, _⟩
  · obtain rfl := Host.Outcome.next.inj (he.symm.trans h); rfl
  · obtain rfl := Host.Outcome.next.inj (he.symm.trans h); rfl
  all_goals exact absurd hidle hp

/-- While an operation runs a host access writes CMDERR and the words the host has read, and nothing else (R97). -/
theorem access_busy_writes {e : Event} {s t : State} (he : (∃ a w, e = .read a w) ∨ ∃ a w v, e = .write a w v)
    (hp : s.phase ≠ .idle) (h : perform e s = .next t) : t = hostWrites t.cmderr t.hostReads s := by
  rcases he with ⟨a, w, rfl⟩ | ⟨a, w, v, rfl⟩
  · obtain ⟨_, _, ⟨_, rfl⟩ | ⟨_, rfl⟩⟩ := busRead_cases h <;> rfl
  · obtain ⟨_, _, ⟨_, rfl⟩ | ⟨_, _, hw⟩ | ⟨_, _, rfl⟩⟩ := busWrite_cases h
    · rfl
    · rcases commandWrite_cases v s with ⟨_, hc⟩ | ⟨i, _, hc⟩
      · obtain rfl := Host.Outcome.next.inj (hc.symm.trans hw); rfl
      · rw [exec_busy_writes hp (hc.symm.trans hw)]; rfl
    · rfl

/-- Settles O55: a tick commutes with everything a host access writes of a running block. -/
theorem hostAccessesDoNotDisturbAnOperation : Obligations.HostAccessesDoNotDisturbAnOperation := by
  intro e l s s' t he hp h
  have hs' : s' = hostWrites s'.cmderr s'.hostReads s := access_busy_writes he hp h
  refine ⟨hs', fun ht => ?_⟩
  conv_lhs => rw [hs']
  exact tick_hostWrites s'.cmderr s'.hostReads ht

/-- A machine that differs in `shreg` alone. -/
def withShreg (x : BitVec 40) (s : State) : State := { s with shreg := x }

theorem passive_withShreg (x : BitVec 40) : Passive (withShreg x) := by
  constructor <;> intros <;> rfl

/-- No register shows `shreg`. -/
theorem readReg_withShreg (x : BitVec 40) (s : State) (r : Reg) : readReg (withShreg x s) r = readReg s r := by
  cases r <;> rfl

/-- A completed frame that does not end OK ends with CHECKSUM_ERROR. -/
theorem complete_of_not_ok {s : State} (h : (complete s).result ≠ .ok) : complete s = finish .checksumError s := by
  refine complete_of_not_frameOk fun hok => h ?_
  rw [complete_of_frameOk hok]
  rfl

/-- The tick that decodes a bit leaves machines that differ in `shreg` alone, unless it publishes a frame. -/
theorem decodeBit_withShreg (x : BitVec 40) (n : TickCount) (s : State)
    (hends : (decodeBit n s).phase = .idle →
      (decodeBit n s).result ≠ .ok ∧ (decodeBit n (withShreg x s)).result ≠ .ok) :
    ∃ y, decodeBit n (withShreg x s) = withShreg y (decodeBit n s) := by
  have htake : takeBit n (withShreg x s) =
    withShreg (shiftIn x (bitOfCount s.par n)) (takeBit n s) := rfl
  by_cases hlast : (takeBit n s).bitcnt = 40
  · have hs : decodeBit n s = complete (takeBit n s) := if_pos hlast
    have hx : decodeBit n (withShreg x s) = complete (takeBit n (withShreg x s)) := if_pos hlast
    have hidle : (complete (takeBit n s)).phase = .idle := by
      unfold complete
      split <;> rfl
    obtain ⟨hok, hokx⟩ := hends (hs ▸ hidle)
    rw [hs] at hok
    rw [hx] at hokx
    exact ⟨_, by rw [hs, hx, complete_of_not_ok hok, complete_of_not_ok hokx, htake]; rfl⟩
  · have hs : decodeBit n s = nextHold .bitL (takeBit n s) := if_neg hlast
    have hx : decodeBit n (withShreg x s) = nextHold .bitL (takeBit n (withShreg x s)) := if_neg hlast
    exact ⟨_, by rw [hs, hx, htake, (passive_withShreg _).nextHold]⟩

/-- Settles O56: two machines that differ only in `shreg` go on to differ only in it, and no register shows it. -/
theorem unpublishedFramesLeaveNoTrace : Obligations.UnpublishedFramesLeaveNoTrace := by
  intro l s t u x ht hu hends r
  have hsame : ∃ y, u = withShreg y t := by
    by_cases hbit : s.phase = .bitH → l = .high
    · exact ⟨x, Host.Outcome.next.inj (hu.symm.trans ((passive_withShreg x).tick hbit ht))⟩
    · push Not at hbit
      obtain ⟨hp, hl⟩ := hbit
      obtain rfl := LineLevel.ne_high_iff.mp hl
      obtain rfl := Host.Outcome.next.inj ((tick_low_bitH hp).symm.trans ht)
      obtain rfl := Host.Outcome.next.inj ((tick_low_bitH (s := withShreg x s) hp).symm.trans hu)
      exact decodeBit_withShreg x s.cnt s (hends (by rw [hp]; decide))
  obtain ⟨y, rfl⟩ := hsame
  exact (readReg_withShreg y t r).symm

end Sys2Proof.Machine
end

section
/-! PROOFS. READ's pulses tick by tick (spec/41_frame_decoder.md R71, R72), the threshold of a bit (spec/00_scope.md R5)
and the order of a frame's bits (spec/20_memory.md R42). -/
namespace Sys2Proof.Machine

/-- WAKE goes on while its ticks are fewer than T_WAKE, whatever the samples (R71). -/
theorem runTicks_wake_on (ls : List LineLevel) {s : State} (hp : s.phase = .wake)
    (hc : s.cnt.toNat + ls.length < s.par.tWake.toNat) :
    runTicks ls s = .next { s with cnt := BitVec.ofNat 16 (s.cnt.toNat + ls.length) } := by
  have hb := s.par.tWake.isLt
  refine runTicks_counts (bound := s.par.tWake.toNat - 1) ls (fun l _ c hlt => ?_) (by omega) (by omega)
  have hsucc : (c + 1).toNat = c.toNat + 1 := toNat_succ (by omega)
  exact tick_wake_on (s := { s with cnt := c }) hp fun (heq : c + 1 = s.par.tWake) => by rw [← heq] at hlt; omega

/-- REQ goes on while its ticks are fewer than T_REQ, whatever the samples (R72). -/
theorem runTicks_req_on (ls : List LineLevel) {s : State} (hp : s.phase = .req)
    (hc : s.cnt.toNat + ls.length < s.par.tReq.toNat) :
    runTicks ls s = .next { s with cnt := BitVec.ofNat 16 (s.cnt.toNat + ls.length) } := by
  have hb := s.par.tReq.isLt
  refine runTicks_counts (bound := s.par.tReq.toNat - 1) ls (fun l _ c hlt => ?_) (by omega) (by omega)
  have hsucc : (c + 1).toNat = c.toNat + 1 := toNat_succ (by omega)
  exact tick_req_on (s := { s with cnt := c }) hp fun (heq : c + 1 = s.par.tReq) => by rw [← heq] at hlt; omega

/-- T_WAKE ticks after READ's acceptance the line is driven high in REQ (R71). -/
theorem runTicks_wake (ls : List LineLevel) {s : State} (hv : s.par.InRange) (hl : ls.length = s.par.tWake.toNat) :
    runTicks ls (acceptRead s) = .next { acceptRead s with lineOut := .high, phase := .req } := by
  have h3000 := hv.1
  refine runTicks_wake_end (s := acceptRead s) ls rfl ?_ ?_
  · rintro rfl; rw [List.length_nil] at hl; omega
  · exact (Nat.zero_add _).trans hl

/-- Settles O32: WAKE counts the ticks since the acceptance, with the line driver as it left it. -/
theorem wakeDrivesTheLineLow : Obligations.WakeDrivesTheLineLow := by
  intro s t ls hv hp h
  obtain rfl := Host.Outcome.next.inj ((exec_read_of_idle hp).symm.trans h)
  refine ⟨fun hlt => ?wake, fun heq => ?req⟩
  case wake =>
    have hb := s.par.tWake.isLt
    have hc : (acceptRead s).cnt.toNat + ls.length = ls.length := Nat.zero_add _
    refine ⟨_, runTicks_wake_on ls rfl (by rw [hc]; exact hlt), rfl, rfl, ?_⟩
    show (BitVec.ofNat 16 ((acceptRead s).cnt.toNat + ls.length)).toNat = ls.length
    rw [hc, BitVec.toNat_ofNat, Nat.mod_eq_of_lt (by omega)]
  case req => exact ⟨heq ▸ hv.1, _, runTicks_wake ls hv heq, rfl, rfl, rfl⟩

/-- Settles O34: T_WAKE ticks end WAKE, T_REQ more release the line, and the presence low hold has counted nothing. -/
theorem requestIsHighAndThenReleased : Obligations.RequestIsHighAndThenReleased := by
  refine ⟨by decide, fun s t ls hv hp h => ?_⟩
  obtain rfl := Host.Outcome.next.inj ((exec_read_of_idle hp).symm.trans h)
  refine ⟨fun hge hlt => ?req, fun hlen => ?released⟩
  case req =>
    have hwake := runTicks_wake (ls.take s.par.tWake.toNat) hv (by rw [List.length_take, Nat.min_eq_left hge])
    have hreq := runTicks_req_on (ls.drop s.par.tWake.toNat)
      (s := { acceptRead s with lineOut := .high, phase := .req }) rfl
      (show 0 + _ < s.par.tReq.toNat by rw [List.length_drop]; omega)
    rw [← List.take_append_drop s.par.tWake.toNat ls, runTicks_append hwake]
    exact ⟨_, hreq, rfl, rfl⟩
  case released =>
    have hpulse := runTicks_pulse ls hv (by unfold firstSampleTick at hlen; omega)
    refine ⟨_, hpulse, rfl, rfl, ?_, ?_⟩
    · exact tick_counts (s := { acceptRead s with phase := .presL, lineOe := false }) rfl hv.2.2.1
    · exact tick_high_presL (s := { acceptRead s with phase := .presL, lineOe := false }) hv rfl

/-- The bit decoded is the one that its count gives, whatever follows it (R76, R77). -/
theorem decodeBit_shreg (n : TickCount) (s : State) :
    (decodeBit n s).shreg = shiftIn s.shreg (bitOfCount s.par n) := by
  unfold decodeBit
  split
  · unfold complete
    split <;> rfl
  · rcases nextHold_cases .bitL (takeBit n s) with he | ⟨c, he⟩ <;> rw [he] <;> rfl

/-- Settles O36: the largest count that ends within the timeout is the timeout itself. -/
theorem onesNeedTheThresholdBelowTheTimeout : Obligations.OnesNeedTheThresholdBelowTheTimeout := by
  refine ⟨fun p => ⟨fun hlt => ?_, fun ⟨n, _, hle, hone⟩ => ?_⟩, fun s t hp hthresh hc ht => ?_⟩
  · exact ⟨p.toBitH, by omega, le_rfl, decide_eq_true hlt⟩
  · have hgt := of_decide_eq_true hone
    omega
  · obtain rfl := Host.Outcome.next.inj ((tick_low_bitH hp).symm.trans ht)
    have hzero : bitOfCount s.par s.cnt = false := decide_eq_false (by omega)
    rw [decodeBit_shreg, hzero]

/-- A shifted-in bit stands at bit 0, and every other bit moves up by one (R77). -/
theorem getLsbD_shiftIn (f : BitVec 40) (b : Bool) {i : Nat} (hi : i < 40) :
    (shiftIn f b).getLsbD i = if i = 0 then b else f.getLsbD (i - 1) := by
  unfold shiftIn
  rw [BitVec.getLsbD_append]
  cases i with
  | zero => simp
  | succ i => simp [show i < 39 by omega]

/-- The bits shifted in last stand lowest (R77). -/
theorem getElem?_foldl_shiftIn (bits : List Bool) (f : BitVec 40) {i : Nat} (hi : i < bits.length) (h40 : i < 40) :
    bits[bits.length - 1 - i]? = some ((bits.foldl shiftIn f).getLsbD i) := by
  induction bits using List.reverseRecOn generalizing i with
  | nil => exact nomatch hi
  | append_singleton bits b ih =>
    rw [List.foldl_append, List.foldl_cons, List.foldl_nil, getLsbD_shiftIn _ b h40]
    rw [List.length_append, List.length_singleton] at hi ⊢
    cases i with
    | zero => simp
    | succ i =>
      have h := ih (i := i) (by omega) (by omega)
      rw [Nat.sub_sub, Nat.add_comm 1 i] at h
      rw [List.getElem?_append_left (by omega), if_neg (Nat.succ_ne_zero i), Nat.add_sub_cancel]
      exact h

/-- Settles O37: bit `k` of 40 stands at bit `39 - k` of `shreg`, which lies in byte `k / 8`. -/
theorem bitsArePackedMostSignificantFirst : Obligations.BitsArePackedMostSignificantFirst := by
  intro bits hlen f bytes
  have hbytes (k : Nat) (hk : k < 5) : bytes[k]? = some (f.extractLsb' (32 - 8 * k) 8) := by
    interval_cases k <;> rfl
  refine ⟨fun k hk => ?bits, fun k hk => ⟨_, hbytes k hk, rfl⟩, fun s hs => ?published⟩
  case bits =>
    have hbit : bits[k]? = some (f.getLsbD (39 - k)) := by
      have h := getElem?_foldl_shiftIn bits 0 (i := 39 - k) (by omega) (by omega)
      rwa [hlen, show 40 - 1 - (39 - k) = k by omega] at h
    refine ⟨_, _, hbit, hbytes (k / 8) (by omega), ?_⟩
    rw [BitVec.getLsbD_extractLsb', show 32 - 8 * (k / 8) + (7 - k % 8) = 39 - k by omega]
    simp [show 7 - k % 8 < 8 by omega]
  case published =>
    rw [← hs]
    refine ⟨frame0Word_frameBytes s.shreg, ?_⟩
    exact (BitVec.extractLsb'_setWidth_of_le (by decide)).trans BitVec.extractLsb'_eq_self

end Sys2Proof.Machine
end

section
/-! PROOFS. A READ whose line carries a frame within the timeouts (spec/41_frame_decoder.md R73 to R80, R87 to R89): the
presence pulse, the bits one by one, and the checksum's verdict in the tick that ends the last one. -/
namespace Sys2Proof.Machine

/-- A READ's next hold: the sample that starts it and those that follow it at its level (R61, R75). -/
theorem runTicks_enter {l : LineLevel} {timeout : TickCount} {n : Nat} {s u : State} (hn : 1 ≤ n)
    (hle : n ≤ timeout.toNat) (htick : tick l s = .next { u with cnt := 1 })
    (hh : holdParams u = some (l, timeout)) :
    runTicks (List.replicate n l) s = .next { u with cnt := BitVec.ofNat 16 n } := by
  obtain ⟨m, rfl⟩ : ∃ m, n = 1 + m := ⟨n - 1, by omega⟩
  rw [Nat.add_comm, List.replicate_succ, runTicks_cons htick, Nat.add_comm]
  exact runTicks_on_level (s := { u with cnt := 1 }) m hh hle

/-- A bit's two holds, from the hold that its first sample ends (R75, R76). -/
theorem runTicks_bit {b : BitHold} {v : Bool} {s u : State} (hv : u.par.InRange) (hb : b.Carries u.par v)
    (hlow : tick .low s = .next { u with phase := .bitL, cnt := 1 }) :
    runTicks b.samples s = .next { u with phase := .bitH, cnt := BitVec.ofNat 16 b.high } := by
  obtain ⟨hlow1, hlowMax, hhigh1, hhighMax, -⟩ := hb
  have hl := runTicks_enter (u := { u with phase := .bitL }) hlow1 hlowMax hlow rfl
  have hh := runTicks_enter (s := { u with phase := .bitL, cnt := BitVec.ofNat 16 b.low })
    (u := { u with phase := .bitH }) hhigh1 hhighMax (tick_high_bitL hv rfl) rfl
  exact (runTicks_append hl).trans hh

/-- The bit that a hold of `b` decodes to is the one it carries (R76). -/
theorem bitOfCount_of_carries {p : Params} {b : BitHold} {v : Bool} (hb : b.Carries p v) :
    bitOfCount p (BitVec.ofNat 16 b.high) = v := by
  obtain ⟨-, -, -, hmax, hthresh⟩ := hb
  have hlt := p.toBitH.isLt
  have hn : (BitVec.ofNat 16 b.high).toNat = b.high := by rw [BitVec.toNat_ofNat, Nat.mod_eq_of_lt (by omega)]
  rw [bitOfCount, hn, Bool.eq_iff_iff, decide_eq_true_iff, hthresh]

/-- `shreg` after `k` bits of a frame holds the frame's top `k` bits (R77). -/
theorem shiftIn_frame (f : BitVec 40) {k : Nat} (hk : k < 40) :
    shiftIn (f >>> (40 - k)) (f.getMsbD k) = f >>> (40 - (k + 1)) := by
  apply BitVec.eq_of_getLsbD_eq
  intro i hi
  rw [getLsbD_shiftIn _ _ hi, BitVec.getLsbD_ushiftRight, BitVec.getLsbD_ushiftRight, BitVec.getMsbD]
  cases i with
  | zero =>
    rw [if_pos rfl, decide_eq_true hk, Bool.true_and]
    congr 1
    omega
  | succ i =>
    rw [if_neg (Nat.succ_ne_zero i)]
    congr 1
    omega

/-- A READ from `r`'s acceptance that has decoded the first `k` bits of `f` and is in the high hold of bit `k`. -/
def inBitOf (r : State) (f : BitVec 40) (k : Nat) (b : BitHold) : State :=
  { r with phase := .bitH, cnt := BitVec.ofNat 16 b.high, bitcnt := BitVec.ofNat 6 k, shreg := f >>> (40 - k) }

theorem takeBit_inBitOf {r : State} {f : BitVec 40} {k : Nat} {b : BitHold} (hk : k < 40)
    (hb : b.Carries r.par (f.getMsbD k)) : takeBit (inBitOf r f k b).cnt (inBitOf r f k b) =
    { inBitOf r f k b with bitcnt := BitVec.ofNat 6 (k + 1), shreg := f >>> (40 - (k + 1)) } := by
  have hbit : bitOfCount r.par (BitVec.ofNat 16 b.high) = f.getMsbD k := bitOfCount_of_carries hb
  have hcount : BitVec.ofNat 6 k + 1 = BitVec.ofNat 6 (k + 1) := (BitVec.ofNat_add k 1).symm
  rw [← shiftIn_frame f hk, ← hbit, ← hcount]
  rfl

/-- The bits of a frame, up to the high hold of bit `k` (R75 to R77). -/
theorem runTicks_bits {r : State} {f : BitVec 40} {bits : List BitHold} (hv : r.par.InRange) (hp : r.phase = .presH)
    (hr : r.bitcnt = 0 ∧ r.shreg = 0)
    (hbits : ∀ k, k < 40 → ∃ b, bits[k]? = some b ∧ b.Carries r.par (f.getMsbD k)) {k : Nat} (hk : k < 40) :
    ∃ b, b.Carries r.par (f.getMsbD k) ∧
      runTicks ((bits.take (k + 1)).flatMap BitHold.samples) r = .next (inBitOf r f k b) := by
  induction k with
  | zero =>
    obtain ⟨b, hget, hb⟩ := hbits 0 hk
    refine ⟨b, hb, ?_⟩
    have hstart : inBitOf r f 0 b = { r with phase := .bitH, cnt := BitVec.ofNat 16 b.high } := by
      rw [inBitOf, BitVec.ushiftRight_eq_zero (by decide), hr.1, hr.2]
      rfl
    rw [List.take_add_one, hget, hstart]
    show runTicks (b.samples ++ []) r = _
    rw [List.append_nil]
    exact runTicks_bit hv hb (tick_low_presH hv hp)
  | succ k ih =>
    obtain ⟨b, hb, hrun⟩ := ih (by omega)
    obtain ⟨b', hget, hb'⟩ := hbits (k + 1) hk
    refine ⟨b', hb', ?_⟩
    have hmore : (inBitOf r f k b).bitcnt.toNat ≠ 39 := by
      show (BitVec.ofNat 6 k).toNat ≠ 39
      rw [BitVec.toNat_ofNat]
      omega
    have hlow := tick_low_more_bits (s := inBitOf r f k b) hv rfl hmore
    rw [takeBit_inBitOf (by omega) hb] at hlow
    have hbit := runTicks_bit (u := { inBitOf r f k b with
      bitcnt := BitVec.ofNat 6 (k + 1), shreg := f >>> (40 - (k + 1)) }) hv hb' hlow
    rw [List.take_add_one, hget, List.flatMap_append, runTicks_append hrun]
    show runTicks (b'.samples ++ []) _ = _
    rw [List.append_nil]
    exact hbit

/-- A READ whose presence high hold has counted `n` samples, the line released. -/
def afterPresence (s : State) (n : Nat) : State :=
  { acceptRead s with phase := .presH, lineOe := false, cnt := BitVec.ofNat 16 n }

/-- The whole answer of a sensor after READ's pulses: its last sample completes the frame, in BIT_H (R76, R87). -/
theorem runTicks_answer {s : State} {pulse : List LineLevel} {presLow presHigh : Nat} {bits : List BitHold}
    {f : BitVec 40} (hv : s.par.InRange) (hl : pulse.length = s.par.tWake.toNat + s.par.tReq.toNat)
    (ha : AnswerCarries s.par presLow presHigh bits f) :
    (∃ u, runTicks ((pulse ++ answerSamples presLow presHigh bits).dropLast) (acceptRead s) = .next u ∧
      u.phase = .bitH) ∧
    ∃ c, runTicks (pulse ++ answerSamples presLow presHigh bits) (acceptRead s) = .next (complete
      { acceptRead s with phase := .bitH, lineOe := false, cnt := c, bitcnt := 40, shreg := f }) := by
  obtain ⟨hpresLow, hpresHigh1, hpresHigh, hlen, hbits⟩ := ha
  have hpulse := runTicks_pulse pulse hv hl
  have hlow := runTicks_on_level (s := { acceptRead s with phase := .presL, lineOe := false }) presLow rfl
    ((Nat.zero_add presLow).symm ▸ hpresLow)
  have hhigh := runTicks_enter
    (s := { acceptRead s with phase := .presL, lineOe := false, cnt := BitVec.ofNat 16 (0 + presLow) })
    (u := { acceptRead s with phase := .presH, lineOe := false }) hpresHigh1 hpresHigh (tick_high_presL hv rfl) rfl
  obtain ⟨b, hb, hdata⟩ := runTicks_bits (k := 39) (r := afterPresence s presHigh) hv rfl ⟨rfl, rfl⟩ hbits (by decide)
  rw [List.take_of_length_le hlen.le] at hdata
  have hbefore : runTicks (pulse ++ (List.replicate presLow .low ++ List.replicate presHigh .high ++
      bits.flatMap BitHold.samples)) (acceptRead s) = .next (inBitOf (afterPresence s presHigh) f 39 b) :=
    (runTicks_append hpulse).trans ((runTicks_append ((runTicks_append hlow).trans hhigh)).trans hdata)
  refine ⟨⟨inBitOf (afterPresence s presHigh) f 39 b, ?before, rfl⟩, BitVec.ofNat 16 b.high, ?last⟩
  case before =>
    rw [answerSamples, ← List.append_assoc, List.dropLast_concat]
    exact hbefore
  case last =>
    rw [answerSamples, ← List.append_assoc, runTicks_append hbefore, runTicks_cons (tick_low_last_bit rfl rfl),
      takeBit_inBitOf (by decide) hb]
    rfl

/-- Settles O41: the answer's last sample completes the frame that its bits carry. -/
theorem goodFramesAreDelivered : Obligations.GoodFramesAreDelivered := by
  intro s t pulse presLow presHigh bits f hv hp h hl ha hsum
  obtain rfl := Host.Outcome.next.inj ((exec_read_of_idle hp).symm.trans h)
  obtain ⟨hbefore, c, hlast⟩ := runTicks_answer hv hl ha
  refine ⟨?_, hbefore⟩
  have hok : frameOk f = true := (frameOk_iff f).mpr hsum
  have htemp := temperatureWord_eq (frameByte2 f) (frameByte3 f)
  rw [temperatureTenths] at htemp
  rw [hlast, complete_of_frameOk hok, ← frame0Word_frameBytes, ← humidityWord_eq, ← htemp]
  rfl

/-- One changed bit of byte 4 makes the checksum fail: it leaves bytes 0 to 3 alone (R42, R78). -/
theorem frameOk_flip {f : BitVec 40} {k : Nat} (hk : k < 8) (hok : frameOk f = true) :
    ¬ frameOk (f ^^^ BitVec.ofNat 40 (2 ^ k)) = true := by
  have hmask : ∀ k < 8, (BitVec.ofNat 40 (2 ^ k)).extractLsb' 32 8 = 0#8 ∧
      (BitVec.ofNat 40 (2 ^ k)).extractLsb' 24 8 = 0#8 ∧ (BitVec.ofNat 40 (2 ^ k)).extractLsb' 16 8 = 0#8 ∧
      (BitVec.ofNat 40 (2 ^ k)).extractLsb' 8 8 = 0#8 ∧ (BitVec.ofNat 40 (2 ^ k)).extractLsb' 0 8 ≠ 0#8 := by decide
  obtain ⟨h0, h1, h2, h3, h4⟩ := hmask k hk
  intro hflip
  simp only [frameOk, beq_iff_eq, frameByte0, frameByte1, frameByte2, frameByte3, frameByte4, BitVec.extractLsb'_xor,
    h0, h1, h2, h3, BitVec.xor_zero] at hok hflip
  rw [← hok] at hflip
  exact h4 ((BitVec.xor_right_inj _).mp (hflip.trans BitVec.xor_zero.symm))

/-- Settles O42: with one bit of byte 4 changed the sum of the other bytes no longer matches it. -/
theorem oneFlippedChecksumBitIsCaught : Obligations.OneFlippedChecksumBitIsCaught := by
  intro s t pulse presLow presHigh bits f k hv hp h hl hok hk ha
  obtain rfl := Host.Outcome.next.inj ((exec_read_of_idle hp).symm.trans h)
  obtain ⟨-, c, hlast⟩ := runTicks_answer hv hl ha
  rw [complete_of_not_frameOk (frameOk_flip hk hok)] at hlast
  exact ⟨_, hlast, rfl, rfl, rfl, rfl, rfl, rfl, rfl, rfl, rfl, rfl⟩

end Sys2Proof.Machine
end

section
/-! PROOFS. How long a READ takes (spec/70_reset_and_hazards.md R122, spec/41_frame_decoder.md R87): the phase a READ is
in after `n` ticks bounds `n` from both sides. -/
namespace Sys2Proof.Machine

/-- Where a READ can be `n` ticks after its acceptance, whatever the line does. Each phase bounds `n` by its earliest
and its latest start and by what it has counted since. The presence low hold may count no sample (R86); every later hold
counts at least one. -/
inductive ReadAfter (p : Params) (n : Nat) (s : State) : Prop where
  | wake (hp : s.phase = .wake) (hk : s.bitcnt.toNat = 0) (h : s.cnt.toNat = n ∧ n < p.tWake.toNat)
  | req (hp : s.phase = .req) (hk : s.bitcnt.toNat = 0)
      (h : p.tWake.toNat + s.cnt.toNat = n ∧ s.cnt.toNat < p.tReq.toNat)
  | presL (hp : s.phase = .presL) (hk : s.bitcnt.toNat = 0)
      (h : firstSampleTick p + s.cnt.toNat = n + 1 ∧ s.cnt.toNat ≤ p.toPresL.toNat)
  | presH (hp : s.phase = .presH) (hk : s.bitcnt.toNat = 0)
      (h : 1 ≤ s.cnt.toNat ∧ s.cnt.toNat ≤ p.toPresH.toNat ∧ firstSampleTick p + s.cnt.toNat ≤ n + 1 ∧
        n + 1 ≤ firstSampleTick p + p.toPresL.toNat + s.cnt.toNat)
  | bitL (hp : s.phase = .bitL) (hk : s.bitcnt.toNat < 40)
      (h : 1 ≤ s.cnt.toNat ∧ s.cnt.toNat ≤ p.toBitL.toNat ∧
        firstSampleTick p + 1 + 2 * s.bitcnt.toNat + s.cnt.toNat ≤ n + 1 ∧
        n + 1 ≤ firstSampleTick p + p.toPresL.toNat + p.toPresH.toNat +
          s.bitcnt.toNat * (p.toBitL.toNat + p.toBitH.toNat) + s.cnt.toNat)
  | bitH (hp : s.phase = .bitH) (hk : s.bitcnt.toNat < 40)
      (h : 1 ≤ s.cnt.toNat ∧ s.cnt.toNat ≤ p.toBitH.toNat ∧
        firstSampleTick p + 2 + 2 * s.bitcnt.toNat + s.cnt.toNat ≤ n + 1 ∧
        n + 1 ≤ firstSampleTick p + p.toPresL.toNat + p.toPresH.toNat +
          s.bitcnt.toNat * (p.toBitL.toNat + p.toBitH.toNat) + p.toBitL.toNat + s.cnt.toNat)
  | ended (hp : s.phase = .idle) (hd : s.done = true) (htimeout : s.result = .timeout → earliestReadTimeout p ≤ n)
      (hother : s.result ≠ .timeout → firstSampleTick p + 1 + 80 ≤ n)

/-- A tick of WAKE below T_WAKE counts, or is the last and enters REQ (R71). -/
theorem tick_wake_cases {l : LineLevel} {s t : State} (hp : s.phase = .wake) (hlt : s.cnt.toNat < s.par.tWake.toNat)
    (ht : tick l s = .next t) :
    (s.cnt.toNat + 1 = s.par.tWake.toNat ∧ t = { s with lineOut := .high, cnt := 0, phase := .req }) ∨
    (s.cnt.toNat + 1 < s.par.tWake.toNat ∧ (s.cnt + 1).toNat = s.cnt.toNat + 1 ∧ t = { s with cnt := s.cnt + 1 }) := by
  have hsucc : (s.cnt + 1).toNat = s.cnt.toNat + 1 := toNat_succ (by omega)
  by_cases hover : s.cnt + 1 = s.par.tWake
  · exact .inl ⟨hsucc.symm.trans (congrArg BitVec.toNat hover),
      Host.Outcome.next.inj (ht.symm.trans (tick_wake_over hp hover))⟩
  · have hne : (s.cnt + 1).toNat ≠ s.par.tWake.toNat := mt BitVec.eq_of_toNat_eq hover
    exact .inr ⟨by omega, hsucc, Host.Outcome.next.inj (ht.symm.trans (tick_wake_on hp hover))⟩

/-- A tick of REQ below T_REQ counts, or is the last and releases the line (R72). -/
theorem tick_req_cases {l : LineLevel} {s t : State} (hp : s.phase = .req) (hlt : s.cnt.toNat < s.par.tReq.toNat)
    (ht : tick l s = .next t) :
    (s.cnt.toNat + 1 = s.par.tReq.toNat ∧
      t = { s with lineOe := false, lineOut := .low, cnt := 0, phase := .presL }) ∨
    (s.cnt.toNat + 1 < s.par.tReq.toNat ∧ (s.cnt + 1).toNat = s.cnt.toNat + 1 ∧ t = { s with cnt := s.cnt + 1 }) := by
  have hsucc : (s.cnt + 1).toNat = s.cnt.toNat + 1 := toNat_succ (by omega)
  by_cases hover : s.cnt + 1 = s.par.tReq
  · exact .inl ⟨hsucc.symm.trans (congrArg BitVec.toNat hover),
      Host.Outcome.next.inj (ht.symm.trans (tick_req_over hp hover))⟩
  · have hne : (s.cnt + 1).toNat ≠ s.par.tReq.toNat := mt BitVec.eq_of_toNat_eq hover
    exact .inr ⟨by omega, hsucc, Host.Outcome.next.inj (ht.symm.trans (tick_req_on hp hover))⟩

/-- A tick of a hold counts, times out at the timeout, or ends the hold (R60, R61). -/
theorem tick_hold_cases {l level : LineLevel} {timeout : TickCount} {s t : State}
    (h : holdParams s = some (level, timeout)) (ht : tick l s = .next t) :
    (s.cnt.toNat < timeout.toNat ∧ (s.cnt + 1).toNat = s.cnt.toNat + 1 ∧ t = { s with cnt := s.cnt + 1 }) ∨
    (timeout.toNat ≤ s.cnt.toNat ∧ t = finish .timeout s) ∨ l ≠ level := by
  by_cases hl : l = level
  · subst hl
    obtain rfl := Host.Outcome.next.inj ((tick_on_level h).symm.trans ht)
    rcases countSample_cases timeout s with ⟨hgt, he⟩ | ⟨hle, hsucc, he⟩
    · exact .inr (.inl ⟨by omega, he⟩)
    · exact .inl ⟨hle, hsucc, he⟩
  · exact .inr (.inr hl)

/-- A completed frame ends the READ, and not with TIMEOUT (R78, R80). -/
theorem complete_ends (s : State) :
    (complete s).phase = .idle ∧ (complete s).done = true ∧ (complete s).result ≠ .timeout := by
  unfold complete
  split <;> exact ⟨rfl, rfl, nofun⟩

/-- Every tick keeps the bounds: it counts, times out, or starts the next phase at once (R60, R61, R71, R72). -/
theorem ReadAfter.tick {n : Nat} {l : LineLevel} {s t : State} (hv : s.par.InRange) (h : ReadAfter s.par n s)
    (ht : tick l s = .next t) : ReadAfter s.par (n + 1) t := by
  have h0 : (0 : TickCount).toNat = 0 := rfl
  have h1 : (1 : TickCount).toNat = 1 := rfl
  have hS0 : firstSampleTick s.par = s.par.tWake.toNat + s.par.tReq.toNat + 1 := rfl
  have hearly : earliestReadTimeout s.par = firstSampleTick s.par + min (min s.par.toPresL.toNat s.par.toPresH.toNat)
    (min (1 + s.par.toBitL.toNat) (2 + s.par.toBitH.toNat)) := rfl
  have ⟨_, hreq1, _, hpresH1, hbitL1, hbitH1, _, _⟩ := hv
  cases h with
  | wake hp hk h =>
    rcases tick_wake_cases hp (by omega) ht with ⟨hover, rfl⟩ | ⟨hon, hsucc, rfl⟩
    · exact .req rfl hk (by dsimp only; omega)
    · exact .wake hp hk (by dsimp only; omega)
  | req hp hk h =>
    rcases tick_req_cases hp h.2 ht with ⟨hover, rfl⟩ | ⟨hon, hsucc, rfl⟩
    · exact .presL rfl hk (by dsimp only; omega)
    · exact .req hp hk (by dsimp only; omega)
  | presL hp hk h =>
    rcases tick_hold_cases (holdParams_presL hp) ht with ⟨hlt, hsucc, rfl⟩ | ⟨hge, rfl⟩ | hne
    · exact .presL hp hk (by dsimp only; omega)
    · exact .ended rfl rfl (fun _ => by omega) (fun hr => absurd rfl hr)
    · obtain rfl := LineLevel.ne_low_iff.mp hne
      obtain rfl := Host.Outcome.next.inj ((tick_high_presL hv hp).symm.trans ht)
      exact .presH rfl hk (by dsimp only; omega)
  | presH hp hk h =>
    rcases tick_hold_cases (holdParams_presH hp) ht with ⟨hlt, hsucc, rfl⟩ | ⟨hge, rfl⟩ | hne
    · exact .presH hp hk (by dsimp only; omega)
    · exact .ended rfl rfl (fun _ => by omega) (fun hr => absurd rfl hr)
    · obtain rfl := LineLevel.ne_high_iff.mp hne
      obtain rfl := Host.Outcome.next.inj ((tick_low_presH hv hp).symm.trans ht)
      exact .bitL rfl (by dsimp only; omega) (by dsimp only; rw [hk]; omega)
  | bitL hp hk h =>
    rcases tick_hold_cases (holdParams_bitL hp) ht with ⟨hlt, hsucc, rfl⟩ | ⟨hge, rfl⟩ | hne
    · exact .bitL hp hk (by dsimp only; omega)
    · exact .ended rfl rfl (fun _ => by omega) (fun hr => absurd rfl hr)
    · obtain rfl := LineLevel.ne_low_iff.mp hne
      obtain rfl := Host.Outcome.next.inj ((tick_high_bitL hv hp).symm.trans ht)
      exact .bitH rfl hk (by dsimp only; omega)
  | bitH hp hk h =>
    rcases tick_hold_cases (holdParams_bitH hp) ht with ⟨hlt, hsucc, rfl⟩ | ⟨hge, rfl⟩ | hne
    · exact .bitH hp hk (by dsimp only; omega)
    · exact .ended rfl rfl (fun _ => by omega) (fun hr => absurd rfl hr)
    · obtain rfl := LineLevel.ne_high_iff.mp hne
      by_cases hlast : s.bitcnt.toNat = 39
      · obtain rfl := Host.Outcome.next.inj ((tick_low_last_bit hp hlast).symm.trans ht)
        obtain ⟨hidle, hdone, hresult⟩ := complete_ends (takeBit s.cnt s)
        exact .ended hidle hdone (fun hr => absurd hr hresult) (fun _ => by omega)
      · obtain rfl := Host.Outcome.next.inj ((tick_low_more_bits hv hp hlast).symm.trans ht)
        have hsucc : (s.bitcnt + 1).toNat = s.bitcnt.toNat + 1 := by bv_omega
        refine .bitL rfl (show (s.bitcnt + 1).toNat < 40 by omega) ?_
        show 1 ≤ 1 ∧ 1 ≤ _ ∧ _ + 2 * (s.bitcnt + 1).toNat + 1 ≤ _ ∧ _ ≤ _ + (s.bitcnt + 1).toNat * _ + 1
        have hmul := Nat.add_one_mul s.bitcnt.toNat (s.par.toBitL.toNat + s.par.toBitH.toNat)
        rw [hsucc]
        omega
  | ended hp hd htimeout hother =>
    obtain rfl := Host.Outcome.next.inj ((tick_idle hp).symm.trans ht)
    exact .ended hp hd (fun hr => (htimeout hr).trans n.le_succ) (fun hr => (hother hr).trans n.le_succ)

/-- A READ that has not ended is within its longest time. -/
theorem ReadAfter.lt_longestRead {p : Params} {n : Nat} {s : State} (h : ReadAfter p n s) (hs : s.phase ≠ .idle) :
    n < longestRead p := by
  have hmax (hk : s.bitcnt.toNat < 40) : s.bitcnt.toNat * (p.toBitL.toNat + p.toBitH.toNat) ≤
      39 * (p.toBitL.toNat + p.toBitH.toNat) := Nat.mul_le_mul_right _ (Nat.le_of_lt_succ hk)
  unfold longestRead
  cases h with
  | wake _ _ h => unfold firstSampleTick; omega
  | req _ _ h => unfold firstSampleTick; omega
  | presL _ _ h => omega
  | presH _ _ h => omega
  | bitL _ hk h => have := hmax hk; omega
  | bitH _ hk h => have := hmax hk; omega
  | ended hp => exact absurd hp hs

/-- The bounds follow a READ along any run. -/
theorem ReadAfter.runTicks {n : Nat} {ls : List LineLevel} {s u : State} (hv : s.par.InRange)
    (h : ReadAfter s.par n s) (hrun : runTicks ls s = .next u) : ReadAfter s.par (n + ls.length) u := by
  induction ls generalizing n s with
  | nil => obtain rfl : s = u := Host.Outcome.next.inj hrun; exact h
  | cons l ls ih =>
    obtain ⟨t, ht, hrest⟩ := exists_of_runTicks_cons hrun
    have hpar := (tick_env hv ht).1
    have hnext := ih (s := t) (n := n + 1) (hpar ▸ hv) (hpar ▸ h.tick hv ht) hrest
    rwa [hpar, Nat.add_assoc, Nat.add_comm 1] at hnext

/-- Settles O43: every phase's bounds on the number of ticks, from the acceptance on. -/
theorem everyReadEndsWithinItsBounds : Obligations.EveryReadEndsWithinItsBounds := by
  refine ⟨by decide, by decide, by decide, fun s t u ls hv hp h hrun => ?_⟩
  obtain rfl := Host.Outcome.next.inj ((exec_read_of_idle hp).symm.trans h)
  have hwake : 0 < s.par.tWake.toNat := by have := hv.1; omega
  have hstart : ReadAfter s.par 0 (acceptRead s) := .wake rfl rfl ⟨rfl, hwake⟩
  have hafter : ReadAfter s.par (0 + ls.length) u :=
    ReadAfter.runTicks (s := acceptRead s) hv hstart hrun
  rw [Nat.zero_add] at hafter
  have hends (hidle : u.phase = .idle) : u.done = true ∧
      (u.result = .timeout → earliestReadTimeout s.par ≤ ls.length) ∧
      (u.result ≠ .timeout → firstSampleTick s.par + 1 + 80 ≤ ls.length) := by
    cases hafter with
    | ended _ hd htimeout hother => exact ⟨hd, htimeout, hother⟩
    | wake hp' | req hp' | presL hp' | presH hp' | bitL hp' | bitH hp' => exact nomatch hp'.symm.trans hidle
  refine ⟨fun hlong => ?_, fun hidle => (hends hidle).2.1, fun hidle => (hends hidle).2.2⟩
  have hidle : u.phase = .idle := not_not.mp fun hbusy => absurd (hafter.lt_longestRead hbusy) (by omega)
  exact ⟨hidle, (hends hidle).1⟩

end Sys2Proof.Machine
end

section
/-! PROOFS. The host-side floats (spec/41_frame_decoder.md R84): the scaling by a power of two, the rounding to the
nearest integer, and the sign of a temperature. -/
namespace Sys2Proof.Machine

/-- With fuel to reach `bound`, the doublings stop at the first value that is not below it. -/
theorem scaleUp_spec {bound : Nat} (fuel k : Nat) {x : Nat} (hx : x < 2 * bound) (hfuel : bound ≤ x * 2 ^ fuel) :
    ∃ j, j ≤ fuel ∧ scaleUp bound fuel k x = (k + j, x * 2 ^ j) ∧ bound ≤ x * 2 ^ j ∧ x * 2 ^ j < 2 * bound := by
  induction fuel generalizing k x with
  | zero => exact ⟨0, le_rfl, by simp [scaleUp], hfuel, by simpa using hx⟩
  | succ fuel ih =>
    by_cases hge : bound ≤ x
    · exact ⟨0, Nat.zero_le _, by simp [scaleUp, hge], by simpa using hge, by simpa using hx⟩
    · have hdouble (j : Nat) : 2 * x * 2 ^ j = x * 2 ^ (j + 1) := by rw [pow_succ]; ring
      obtain ⟨j, hj, heq, hlow, hhigh⟩ := ih (k + 1) (x := 2 * x) (by omega) (by rwa [hdouble])
      rw [hdouble] at heq hlow hhigh
      refine ⟨j + 1, by omega, ?_, hlow, hhigh⟩
      rw [scaleUp, if_neg hge, heq, Nat.add_assoc, Nat.add_comm 1]

/-- `divTenEven` is within half a unit of the quotient. -/
theorem divTenEven_error (x : Nat) : 10 * divTenEven x ≤ x + 5 ∧ x ≤ 10 * divTenEven x + 5 := by
  unfold divTenEven
  split <;> omega

/-- `roundTenths n` is a normal number within half a unit in the last place of `n / 10` (R84): the significand is the
rounded quotient, or `2^23` with the next exponent where that is `2^24`. -/
theorem roundTenths_spec {n : BitVec 16} (hn : n ≠ 0) : ∃ e sig : Nat,
    roundTenths n = BitVec.ofNat 32 (e * 2 ^ 23 + (sig - 2 ^ 23)) ∧ 1 ≤ e ∧ e ≤ 150 ∧ 2 ^ 23 ≤ sig ∧ sig < 2 ^ 24 ∧
    2 * (10 * sig) ≤ 2 * (n.toNat * 2 ^ (150 - e)) + 10 ∧
    2 * (n.toNat * 2 ^ (150 - e)) ≤ 2 * (10 * sig) + 10 := by
  have hpos : 1 ≤ n.toNat := Nat.one_le_iff_ne_zero.mpr fun h => hn (BitVec.eq_of_toNat_eq h)
  have hlt := n.isLt
  obtain ⟨j, hj, hscale, hlow, hhigh⟩ := scaleUp_spec (bound := 10 * 2 ^ 23) 32 0 (x := n.toNat) (by omega) (by omega)
  have hround : roundTenths n =
      BitVec.ofNat 32 ((150 - j) * 2 ^ 23 + (divTenEven (n.toNat * 2 ^ j) - 2 ^ 23)) := by
    rw [roundTenths, if_neg hn, hscale, Nat.zero_add]
  obtain ⟨i, rfl⟩ : ∃ i, j = i + 1 := Nat.exists_eq_succ_of_ne_zero (by rintro rfl; omega)
  obtain ⟨hle, hge⟩ := divTenEven_error (n.toNat * 2 ^ (i + 1))
  generalize hsig : divTenEven (n.toNat * 2 ^ (i + 1)) = sig at hround hle hge
  by_cases hcarry : sig < 2 ^ 24
  · refine ⟨150 - (i + 1), sig, hround, by omega, by omega, by omega, hcarry, ?_⟩
    rw [show 150 - (150 - (i + 1)) = i + 1 by omega]
    omega
  · refine ⟨150 - i, 2 ^ 23, ?_, by omega, by omega, le_rfl, by decide, ?_⟩
    · have hnat : (150 - (i + 1)) * 2 ^ 23 + (sig - 2 ^ 23) = (150 - i) * 2 ^ 23 + (2 ^ 23 - 2 ^ 23) := by omega
      rw [hround, hnat]
    · have hdouble : n.toNat * 2 ^ (i + 1) = 2 * (n.toNat * 2 ^ i) := by rw [pow_succ]; ring
      rw [show 150 - (150 - i) = i by omega]
      omega

theorem roundTenths_zero : roundTenths 0 = 0 := if_pos rfl

/-- The sign bit of a rounded quotient is 0. -/
theorem roundTenths_sign (n : BitVec 16) : (roundTenths n).getLsbD 31 = false := by
  by_cases hn : n = 0
  · rw [hn, roundTenths_zero]
    exact BitVec.getLsbD_zero
  · obtain ⟨e, sig, heq, -, he, -, hsig, -⟩ := roundTenths_spec hn
    have hlt : e * 2 ^ 23 + (sig - 2 ^ 23) < 2 ^ 31 := by omega
    rw [heq, BitVec.getLsbD_ofNat, Nat.testBit_lt_two_pow hlt, Bool.and_false]

/-- Negation flips the sign bit. -/
theorem negateBinary32_sign (v : Word) : (negateBinary32 v).getLsbD 31 = !v.getLsbD 31 := by
  rw [negateBinary32, BitVec.getLsbD_xor, show (0x80000000 : Word).getLsbD 31 = true by decide, Bool.xor_true]

/-- Negation leaves the magnitude alone. -/
theorem negateBinary32_magnitude (v : Word) : (negateBinary32 v).extractLsb' 0 31 = v.extractLsb' 0 31 := by
  rw [negateBinary32, BitVec.extractLsb'_xor, show (0x80000000 : Word).extractLsb' 0 31 = 0#31 by decide,
    BitVec.xor_zero]

theorem temperatureFloat_eq (frame0 : Word) : temperatureFloat frame0 =
    if frame0.getLsbD 15 = true then negateBinary32 (roundTenths ((frame0.extractLsb' 0 15).zeroExtend 16))
    else roundTenths ((frame0.extractLsb' 0 15).zeroExtend 16) := by
  rw [temperatureFloat]

/-- Settles O44: the temperature's magnitude is a rounded quotient, and its negation flips the sign bit alone. -/
theorem hostFloatsAreCorrectlyRounded : Obligations.HostFloatsAreCorrectlyRounded := by
  refine ⟨fun n => roundTenths_spec, roundTenths_zero, fun _ => by rw [humidityFloat], fun frame0 => ?_⟩
  rw [temperatureFloat_eq]
  by_cases hneg : frame0.getLsbD 15 = true
  · rw [if_pos hneg, negateBinary32_sign, negateBinary32_magnitude, roundTenths_sign, hneg]
    exact ⟨Bool.not_false, rfl⟩
  · rw [if_neg hneg, roundTenths_sign]
    exact ⟨((Bool.not_eq_true _).mp hneg).symm, rfl⟩

end Sys2Proof.Machine
end
